-- ==== Sys2Proof/Word.lean ====
section
/-! DEFINITION. The word types of CHRPAL and the two small sets of names its words stand for: the sheets and the
command errors. -/

namespace Sys2Proof

/-- A host word: command words, registers, RGBBUF words (R21, R39, R51). -/
abbrev Word := BitVec 32

/-- A byte of the CHR stream (R19). -/
abbrev Byte := BitVec 8

/-- A pixel index in [0,3] (R15, R16). -/
abbrev Pixel := BitVec 2

/-- A master index in [0,63] (R14, R17). -/
abbrev MasterIndex := BitVec 6

/-- A 24-bit colour, R in [23:16], G in [15:8], B in [7:0] (R18, R31). -/
abbrev Rgb := BitVec 24

/-- A byte offset in the block's window of 0x20000 bytes (R34). -/
abbrev Offset := BitVec 17

/-- The two tile sheets (R15). -/
inductive SheetSel where
  | A
  | B
deriving DecidableEq, Repr

/-- The three ways a command word ends in an error, in the order they are checked (R84, R86). -/
inductive CmdError where
  | illegalOp
  | reservedBits
  | badRegion
deriving DecidableEq, Repr

end Sys2Proof
end

