-- ==== Sys2Proof/Syntax.lean ====
section
/-! DEFINITION. The ten commands (R53), one constructor per row of the opcode table. Each field has exactly the width
of its bits in format CW (R52), so no term carries an operand out of its range (R54). -/

namespace Sys2Proof

/-- A command, with the fields its row of R53 uses. -/
inductive Instr where
  /-- CHRBUF to both sheets (R64). -/
  | decode
  /-- Both sheets to CHRBUF (R66). -/
  | encode
  /-- Both sheets to zero (R67). -/
  | zerosh
  /-- One pixel written (R68). -/
  | setpix (s : SheetSel) (row col : BitVec 7) (k : Pixel)
  /-- One pixel read (R70). -/
  | getpix (s : SheetSel) (row col : BitVec 7)
  /-- One sub-palette entry written (R73). -/
  | setpal (p k : BitVec 2) (mi : MasterIndex)
  /-- One sub-palette read (R75). -/
  | getpal (p : BitVec 2)
  /-- One master colour read (R77). -/
  | getmst (mi : MasterIndex)
  /-- One pixel index coloured (R78). -/
  | lookup (p k : BitVec 2)
  /-- A region of a sheet coloured (R80). -/
  | colorize (s : SheetSel) (p : BitVec 2) (row col : BitVec 7)
deriving DecidableEq, Repr

end Sys2Proof
end

