-- ==== Sys2Proof/WellFormed.lean ====
section
/-! DEFINITION. Well-formed command lines. A term of `Instr` is well formed by the types of its fields (R54); what can
be ill formed is the assembler line of R59, whose operands are plain numbers and which the assembler rejects when one
is outside its field's range. -/

namespace Sys2Proof

/-- A command line of R59 with its operands as written. A sheet written `A` is 0 and `B` is 1. -/
inductive AsmLine where
  | decode
  | encode
  | zerosh
  | setpix (s row col value : Nat)
  | getpix (s row col : Nat)
  | setpal (p slot mi : Nat)
  | getpal (p : Nat)
  | getmst (mi : Nat)
  | lookup (p idx : Nat)
  | colorize (s p row0 col0 : Nat)
deriving DecidableEq, Repr

/-- Every operand of the line is inside its field's range (R54, R59). -/
def AsmLine.wellFormed : AsmLine → Bool
  | .decode => true
  | .encode => true
  | .zerosh => true
  | .setpix s row col value => s < 2 && row < 128 && col < 128 && value < 4
  | .getpix s row col => s < 2 && row < 128 && col < 128
  | .setpal p slot mi => p < 4 && slot < 4 && mi < 64
  | .getpal p => p < 4
  | .getmst mi => mi < 64
  | .lookup p idx => p < 4 && idx < 4
  | .colorize s p row0 col0 => s < 2 && p < 4 && row0 < 128 && col0 < 128

end Sys2Proof
end

