-- ==== Sys2Proof/Decode.lean ====
section
/-! DEFINITION. From command words to commands and back: the fields of format CW (R52, R54), the opcode table (R55),
the decoder with its two rejections (R56), the encoder and the assembler (R59). -/

namespace Sys2Proof

/-! ### Fields (R52, R54) -/

/-- `OP = w[3:0]`. -/
def fieldOP (w : Word) : BitVec 4 := w.extractLsb' 0 4

/-- `S = w[4]`: 0 is sheet A, 1 is sheet B. -/
def fieldS (w : Word) : SheetSel := if w.getLsbD 4 then .B else .A

/-- `P = w[7:6]`. -/
def fieldP (w : Word) : BitVec 2 := w.extractLsb' 6 2

/-- `ROW = w[14:8]`. -/
def fieldROW (w : Word) : BitVec 7 := w.extractLsb' 8 7

/-- `COL = w[22:16]`. -/
def fieldCOL (w : Word) : BitVec 7 := w.extractLsb' 16 7

/-- `K = w[25:24]`. -/
def fieldK (w : Word) : BitVec 2 := w.extractLsb' 24 2

/-- `MI = w[31:26]`. -/
def fieldMI (w : Word) : MasterIndex := w.extractLsb' 26 6

/-! ### The opcode table -/

/-- A row of the opcode table: the OP value (R53), match and mask (R55), and how the fields make the command. -/
structure OpRow where
  op      : BitVec 4
  pattern : Word
  mask    : Word
  build   : Word → Instr

/-- The ten rows of R55. -/
def opcodeTable : List OpRow := [
  ⟨0x1, 0x00000001, 0xFFFFFFFF, fun _ => .decode⟩,
  ⟨0x2, 0x00000002, 0xFFFFFFFF, fun _ => .encode⟩,
  ⟨0x3, 0x00000003, 0xFFFFFFFF, fun _ => .zerosh⟩,
  ⟨0x4, 0x00000004, 0xFC8080EF, fun w => .setpix (fieldS w) (fieldROW w) (fieldCOL w) (fieldK w)⟩,
  ⟨0x5, 0x00000005, 0xFF8080EF, fun w => .getpix (fieldS w) (fieldROW w) (fieldCOL w)⟩,
  ⟨0x6, 0x00000006, 0x00FFFF3F, fun w => .setpal (fieldP w) (fieldK w) (fieldMI w)⟩,
  ⟨0x7, 0x00000007, 0xFFFFFF3F, fun w => .getpal (fieldP w)⟩,
  ⟨0x8, 0x00000008, 0x03FFFFFF, fun w => .getmst (fieldMI w)⟩,
  ⟨0x9, 0x00000009, 0xFCFFFF3F, fun w => .lookup (fieldP w) (fieldK w)⟩,
  ⟨0xA, 0x0000000A, 0xFF80802F, fun w => .colorize (fieldS w) (fieldP w) (fieldROW w) (fieldCOL w)⟩]

/-! ### Decoder -/

/-- The checks of R56 in their order: an OP with no row is illegal whatever the other bits are (R57), a 1 in a
must-be-zero bit of a legal OP is rejected (R58), and any other word is its row's command. -/
def decode (w : Word) : Except CmdError Instr :=
  match opcodeTable.find? (fun r => r.op == fieldOP w) with
  | none => .error .illegalOp
  | some r => if w &&& r.mask = r.pattern then .ok (r.build w) else .error .reservedBits

/-! ### Encoder -/

/-- `field << low bit` of R59, in a 32-bit word. -/
def place {n : Nat} (v : BitVec n) (lowBit : Nat) : Word := v.setWidth 32 <<< lowBit

/-- The S bit of a sheet (R52). -/
def SheetSel.toBit : SheetSel → BitVec 1
  | .A => 0
  | .B => 1

/-- The word of a command: `match | (field << low bit)` over its fields (R59). -/
def encode : Instr → Word
  | .decode => 0x00000001
  | .encode => 0x00000002
  | .zerosh => 0x00000003
  | .setpix s row col k => 0x00000004 ||| place s.toBit 4 ||| place row 8 ||| place col 16 ||| place k 24
  | .getpix s row col => 0x00000005 ||| place s.toBit 4 ||| place row 8 ||| place col 16
  | .setpal p k mi => 0x00000006 ||| place p 6 ||| place k 24 ||| place mi 26
  | .getpal p => 0x00000007 ||| place p 6
  | .getmst mi => 0x00000008 ||| place mi 26
  | .lookup p k => 0x00000009 ||| place p 6 ||| place k 24
  | .colorize s p row col => 0x0000000A ||| place s.toBit 4 ||| place p 6 ||| place row 8 ||| place col 16

/-! ### Assembler -/

/-- The sheet a number names in an assembler line (R59). -/
def asmSheet (n : Nat) : SheetSel := if n = 0 then .A else .B

/-- The command of a line whose operands are in range (R59). -/
def AsmLine.toInstr : AsmLine → Instr
  | .decode => .decode
  | .encode => .encode
  | .zerosh => .zerosh
  | .setpix s row col value => .setpix (asmSheet s) (.ofNat 7 row) (.ofNat 7 col) (.ofNat 2 value)
  | .getpix s row col => .getpix (asmSheet s) (.ofNat 7 row) (.ofNat 7 col)
  | .setpal p slot mi => .setpal (.ofNat 2 p) (.ofNat 2 slot) (.ofNat 6 mi)
  | .getpal p => .getpal (.ofNat 2 p)
  | .getmst mi => .getmst (.ofNat 6 mi)
  | .lookup p idx => .lookup (.ofNat 2 p) (.ofNat 2 idx)
  | .colorize s p row0 col0 => .colorize (asmSheet s) (.ofNat 2 p) (.ofNat 7 row0) (.ofNat 7 col0)

/-- The assembler of R59: the line's word, or a rejection when an operand is outside its field's range. -/
def assemble (l : AsmLine) : Option Word :=
  if l.wellFormed then some (encode l.toInstr) else none

/-- The assembler line of a command, its operands as numbers (R59). -/
def Instr.line : Instr → AsmLine
  | .decode => .decode
  | .encode => .encode
  | .zerosh => .zerosh
  | .setpix s row col k => .setpix s.toBit.toNat row.toNat col.toNat k.toNat
  | .getpix s row col => .getpix s.toBit.toNat row.toNat col.toNat
  | .setpal p k mi => .setpal p.toNat k.toNat mi.toNat
  | .getpal p => .getpal p.toNat
  | .getmst mi => .getmst mi.toNat
  | .lookup p k => .lookup p.toNat k.toNat
  | .colorize s p row col => .colorize s.toBit.toNat p.toNat row.toNat col.toNat

/-! ### The host's view of the opcode table -/

/-- The command the decoder reads from a table word of `nbits` bits; a command is always one 32-bit word (R51), whose
bits above `nbits` are 0. -/
def decodeTableWord (nbits w : Nat) : Option Instr :=
  (decode (BitVec.ofNat 32 (w % 2 ^ min nbits 32))).toOption

end Sys2Proof
end

