-- ==== Sys2Proof/Config.lean ====
section
/-! DEFINITION. What is fixed for one CHRPAL: the sizes of R4, the three OPEN parameters of R4, and the free values
that reset draws (R97). The constants without a body have no value that a proof could use (R5). -/

namespace Sys2Proof.Config

/-- `NTILES * TILE_BYTES`: bytes of CHRBUF (R4, R19). -/
@[simp] abbrev chrBytes : Nat := 8192

/-- Words of RGBBUF (R4, R20). -/
@[simp] abbrev rgbWords : Nat := 16384

/-- Cells of the two 128x128 sheets together (R4, R15). -/
@[simp] abbrev sheetCells : Nat := 32768

/-- The largest height and width COLORIZE takes (R4, R81). -/
@[simp] abbrev czMax : Nat := 128

/-- Bytes of the block's window (R34). -/
@[simp] abbrev windowBytes : Nat := 0x20000

/-- `MASTER`, the OPEN master palette (R4, R18). -/
opaque master : MasterIndex → Rgb

/-- `RESET_SUBPAL[p][k]`, the OPEN default sub-palettes (R4, R17). -/
opaque resetSubpal : BitVec 2 → BitVec 2 → MasterIndex

/-- Which of the host's aligned 128 KiB windows the block stands in: the OPEN placement (R34). -/
opaque baseWindow : Nat

/-- `BASE`, a multiple of 0x20000 (R4, R34). -/
def base : Nat := windowBytes * baseWindow

/-- FREE VALUE: byte `k` of CHRBUF as reset number `n` leaves it (R97, I6). -/
opaque chrDraw : (n k : Nat) → Byte

/-- FREE VALUE: word `i` of RGBBUF as reset number `n` leaves it (R97, I7). -/
opaque rgbDraw : (n i : Nat) → Word

end Sys2Proof.Config
end

