-- ==== Sys2Proof/Machine/State.lean ====
section
/-! DEFINITION. The state of CHRPAL: the record of R32 field for field, and beside it the model's own fields for the
host's side of the port. All of it is plain data. -/

namespace Sys2Proof.Machine

/-- A memory as its listed cells, keys strictly rising. -/
abbrev Store (w : Nat) := List (Nat × BitVec w)

/-- What can happen at the port, one event a step (R6): an access of `n` bytes at a window offset (R9), or a reset
between two accesses (R99). Only `n = 4` is supported (R40); the data of any other write is never looked at. -/
inductive HostEvent where
  | memRead (off : Offset) (n : Nat)
  | memWrite (off : Offset) (n : Nat) (v : Word)
  | reset
deriving DecidableEq, Repr

/-- What the host receives for an access: a read's value, a completed write, or the error response of R42. -/
inductive Response where
  | data (v : Word)
  | done
  | busError
deriving DecidableEq, Repr

/-- Why the machine stops. The spec has no such reason: command errors and bus errors are next states, "Neither kind is
fatal" (R83). -/
inductive Fault
deriving DecidableEq, Repr

/-- Why an instruction is given no meaning. -/
inductive Refusal where
  /-- Raised by an arm of `exec` whose command has no meaning yet; safe. No arm raises it. -/
  | notModelled (mnemonic : String)
deriving DecidableEq, Repr

/-- The complete state of R32. -/
structure Chrpal where
  /-- SHEET (R15): cell `128*128*s + 128*r + c` is pixel (r, c) of sheet s; a cell not listed is 0. -/
  sheet   : Store 2
  /-- SUBPAL (R17). -/
  subpal  : Vector (Vector MasterIndex 4) 4
  /-- CHRBUF (R19), byte address and byte; a byte not listed is its reset draw (R97). -/
  chrbuf  : List Host.Cell
  /-- RGBBUF (R20), word number and word; a word not listed is its reset draw (R97). -/
  rgbbuf  : Store 32
  /-- CHR_LEN.LEN (R25). -/
  chrLen  : BitVec 14
  /-- RESULT (R26). -/
  result  : Word
  /-- CZ_SIZE (R27): H in [15:8], W in [7:0]. -/
  czSize  : BitVec 16
  /-- STATUS.ERR (R23). -/
  err     : Bool
  /-- STATUS.ERRCODE (R23). -/
  errcode : BitVec 4
deriving DecidableEq, Repr

/-- The block's state and the model's own port fields. -/
structure State extends Chrpal where
  /-- The host's accesses and resets still to come, in the port's order (R46). DESIGN CHOICE, log 5. -/
  pending  : List HostEvent
  /-- What the host received for its last access (R42). DESIGN CHOICE, log 6. -/
  response : Option Response
  /-- How many resets have followed the first: the number the reset draws depend on. DESIGN CHOICE, log 1. -/
  resets   : Nat
deriving DecidableEq, Repr

/-- The state right after reset (R97). The unlisted cells of `chrbuf` and `rgbbuf` are the draws of reset number 0. -/
def State.reset : State where
  sheet    := []
  subpal   := Vector.ofFn fun p => Vector.ofFn fun k => Config.resetSubpal (.ofFin p) (.ofFin k)
  chrbuf   := []
  rgbbuf   := []
  chrLen   := 0
  result   := 0
  czSize   := 0
  err      := false
  errcode  := 0
  pending  := []
  response := none
  resets   := 0

end Sys2Proof.Machine
end

