-- ==== Sys2Proof/Machine/Flags.lean ====
section
/-! DEFINITION. The STATUS register: its one flag and its error code (R23, R84). -/

namespace Sys2Proof.Machine

/-- The ERRCODE value of a command error (R84). -/
def errorCode : CmdError → BitVec 4
  | .illegalOp    => 1
  | .reservedBits => 2
  | .badRegion    => 3

/-- STATUS as it is read: `zext_32({ERRCODE[3:0], 3'b000, ERR})` (R33). -/
def statusWord (err : Bool) (code : BitVec 4) : Word := (code ++ 0#3 ++ BitVec.ofBool err).setWidth 32

/-- The legal values of STATUS (R23): ERRCODE is 0 when ERR is 0, and 1, 2 or 3 when ERR is 1. -/
def statusLegal (err : Bool) (code : BitVec 4) : Bool :=
  if err then code == 1 || code == 2 || code == 3 else code == 0

end Sys2Proof.Machine
end

