-- ==== Sys2Proof/Machine/Operands.lean ====
section
/-! DEFINITION. Where operands point: cells of the sheets, tiles (R10 to R12), the CHR bytes of a pixel (R65), and the
region of a COLORIZE (R27, R81). -/

namespace Sys2Proof.Machine

/-- Sheet A is 0 and sheet B is 1 (R15). -/
def sheetNumber : SheetSel → Nat
  | .A => 0
  | .B => 1

/-- The sheet with a number (R15). -/
def sheetOf (n : Nat) : SheetSel := if n = 0 then .A else .B

/-- The cell of pixel (r, c) of sheet `sh`, for r and c in [0,127] (R15). -/
def cellKey (sh : SheetSel) (r c : Nat) : Nat := 16384 * sheetNumber sh + 128 * r + c

/-- The sheet of a cell. -/
def cellSheet (k : Nat) : SheetSel := sheetOf (k / 16384)

/-- The row of a cell. -/
def cellRow (k : Nat) : Nat := k / 128 % 128

/-- The column of a cell. -/
def cellCol (k : Nat) : Nat := k % 128

/-- The top row of tile `t` of a sheet (R11). -/
def tileRow (t : Nat) : Nat := 8 * (t / 16)

/-- The leftmost column of tile `t` of a sheet (R11). -/
def tileCol (t : Nat) : Nat := 8 * (t % 16)

/-- The global number of the tile that holds pixel (r, c) of sheet `sh` (R12, R65). -/
def tileOf (sh : SheetSel) (r c : Nat) : Nat := 256 * sheetNumber sh + 16 * (r / 8) + c / 8

/-- The plane-0 byte of a pixel (R65). -/
def plane0Byte (sh : SheetSel) (r c : Nat) : Nat := 16 * tileOf sh r c + r % 8

/-- The plane-1 byte of a pixel (R65). -/
def plane1Byte (sh : SheetSel) (r c : Nat) : Nat := 16 * tileOf sh r c + 8 + r % 8

/-- The bit of both plane bytes that belongs to column `c`: the most significant bit is the leftmost pixel (R50, R65). -/
def bitPos (c : Nat) : Nat := 7 - c % 8

/-- CZ_SIZE.W (R27). -/
def czWidth (sz : BitVec 16) : Nat := (sz.extractLsb' 0 8).toNat

/-- CZ_SIZE.H (R27). -/
def czHeight (sz : BitVec 16) : Nat := (sz.extractLsb' 8 8).toNat

/-- The four conditions of R81 on a COLORIZE region, with sums that do not wrap. -/
def regionLegal (sz : BitVec 16) (row col : BitVec 7) : Bool :=
  1 ≤ czHeight sz && czHeight sz ≤ Config.czMax && 1 ≤ czWidth sz && czWidth sz ≤ Config.czMax
    && row.toNat + czHeight sz ≤ 128 && col.toNat + czWidth sz ≤ 128

end Sys2Proof.Machine
end

