-- ==== Sys2Proof/Machine/Ops.lean ====
section
/-! DEFINITION. The named operations every meaning and every host access is built from: reading and writing the three
memories, the sub-palettes and the registers, the colorize function (R79), and ending a command in an error (R87) with
the clearing of that error beside it (R24). -/

namespace Sys2Proof.Machine

/-! ### Stores

`d` is what an unlisted cell reads as: `some v` where the spec gives the reset contents (SHEET), `none` where it
gives none (CHRBUF, RGBBUF). -/

/-- The listed value of a cell. -/
def Store.get? {w : Nat} : Store w → Nat → Option (BitVec w)
  | [], _ => none
  | (a, v) :: m, k => if a = k then some v else Store.get? m k

/-- The listing of one cell: nothing when the value is what an unlisted cell reads as. -/
def Store.cell {w : Nat} (d : Option (BitVec w)) (k : Nat) (v : BitVec w) : Store w :=
  if d = some v then [] else [(k, v)]

/-- One cell written. -/
def Store.put {w : Nat} (d : Option (BitVec w)) (m : Store w) (k : Nat) (v : BitVec w) : Store w :=
  m.filter (fun e => e.1 < k) ++ (Store.cell d k v ++ m.filter (fun e => k < e.1))

/-- Cells 0 to n-1 holding `f`, every other cell unlisted. -/
def Store.tabulate {w : Nat} (d : Option (BitVec w)) (n : Nat) (f : Nat → BitVec w) : Store w :=
  (List.range' 0 n).flatMap fun k => Store.cell d k (f k)

/-- Cells 0 to n-1 written with `f`, every other cell kept. -/
def Store.fill {w : Nat} (d : Option (BitVec w)) (m : Store w) (n : Nat) (f : Nat → BitVec w) : Store w :=
  Store.tabulate d n f ++ m.filter (fun e => n ≤ e.1)

/-- The canonical form: keys strictly rising and below `size`, no listed value equal to what an unlisted cell reads
as. -/
def Store.wf {w : Nat} (d : Option (BitVec w)) (size : Nat) (m : Store w) : Bool :=
  decide (m.Pairwise fun a b => a.1 < b.1) && m.all fun e => e.1 < size && d != some e.2

/-- The canonical form of the three memories. -/
def Memory.wf (s : State) : Bool :=
  Store.wf (some 0#2) Config.sheetCells s.sheet && Store.wf none Config.chrBytes s.chrbuf
    && Store.wf none Config.rgbWords s.rgbbuf

/-! ### Fields -/

/-- SHEET replaced. -/
def State.setSheet (s : State) (m : Store 2) : State := { s with sheet := m }

/-- SUBPAL replaced. -/
def State.setSubpal (s : State) (v : Vector (Vector MasterIndex 4) 4) : State := { s with subpal := v }

/-- CHRBUF replaced. -/
def State.setChrbuf (s : State) (m : List Host.Cell) : State := { s with chrbuf := m }

/-- RGBBUF replaced. -/
def State.setRgbbuf (s : State) (m : Store 32) : State := { s with rgbbuf := m }

/-- CHR_LEN written. -/
def State.setChrLen (s : State) (v : BitVec 14) : State := { s with chrLen := v }

/-- RESULT written. -/
def State.setResult (s : State) (v : Word) : State := { s with result := v }

/-- CZ_SIZE written. -/
def State.setCzSize (s : State) (v : BitVec 16) : State := { s with czSize := v }

/-- STATUS written. -/
def State.setStatus (s : State) (e : Bool) (code : BitVec 4) : State := { s with err := e, errcode := code }

/-- The events still to come replaced. -/
def State.setPending (s : State) (q : List HostEvent) : State := { s with pending := q }

/-- The host's last outcome replaced. -/
def State.setResponse (s : State) (r : Option Response) : State := { s with response := r }

/-! ### Memory -/

/-- `SHEET[s][r][c]` for r and c in [0,127] (R9). -/
def State.pixel (s : State) (sh : SheetSel) (r c : Nat) : Pixel :=
  (Store.get? s.sheet (cellKey sh r c)).getD 0#2

/-- `SHEET[s][r][c] <- v` (R9). -/
def State.setPixel (s : State) (sh : SheetSel) (r c : Nat) (v : Pixel) : State :=
  s.setSheet (Store.put (some 0#2) s.sheet (cellKey sh r c) v)

/-- Every cell of both sheets written with `f`. -/
def State.setSheets (s : State) (f : SheetSel → Nat → Nat → Pixel) : State :=
  s.setSheet (Store.tabulate (some 0#2) Config.sheetCells fun k => f (cellSheet k) (cellRow k) (cellCol k))

/-- `SUBPAL[p][k]` (R9). -/
def State.subpalEntry (s : State) (p k : BitVec 2) : MasterIndex := (s.subpal.get p.toFin).get k.toFin

/-- `SUBPAL[p][k] <- v` (R9). -/
def State.setSubpalEntry (s : State) (p k : BitVec 2) (v : MasterIndex) : State :=
  s.setSubpal (s.subpal.set p.toFin ((s.subpal.get p.toFin).set k.toFin v k.toFin.isLt) p.toFin.isLt)

/-- `CHRBUF[k]` for k in [0,8191] (R9): the last byte written, or the reset draw (R97). -/
def State.chrByte (s : State) (k : Nat) : Byte := (Store.get? s.chrbuf k).getD (Config.chrDraw s.resets k)

/-- `CHRBUF[k] <- v` (R9). -/
def State.setChrByte (s : State) (k : Nat) (v : Byte) : State := s.setChrbuf (Store.put none s.chrbuf k v)

/-- Every byte of CHRBUF written with `f`. -/
def State.setAllChr (s : State) (f : Nat → Byte) : State :=
  s.setChrbuf (Store.tabulate none Config.chrBytes f)

/-- `RGBBUF[i]` for i in [0,16383] (R9): the last word written, or the reset draw (R97). -/
def State.rgbWord (s : State) (i : Nat) : Word := (Store.get? s.rgbbuf i).getD (Config.rgbDraw s.resets i)

/-- `RGBBUF[i] <- v` (R9). -/
def State.setRgbWord (s : State) (i : Nat) (v : Word) : State := s.setRgbbuf (Store.put none s.rgbbuf i v)

/-- Words 0 to n-1 of RGBBUF written with `f`. -/
def State.fillRgb (s : State) (n : Nat) (f : Nat → Word) : State := s.setRgbbuf (Store.fill none s.rgbbuf n f)

/-! ### Colours -/

/-- The RGB word of a colour: `zext_32` (R31). -/
def rgbWordOf (c : Rgb) : Word := c.setWidth 32

/-- `Colorize(p, idx) = MASTER[SUBPAL[p][idx]]` (R79). -/
def State.colorOf (s : State) (p idx : BitVec 2) : Rgb := Config.master (s.subpalEntry p idx)

/-! ### Errors -/

/-- `raise CmdError(code)` (R87): the first error's code is kept, ERR is set, nothing else changes. -/
def raiseCmdError (e : CmdError) (s : State) : State :=
  s.setStatus true (if s.err then s.errcode else errorCode e)

/-- A host write of `v` to STATUS (R24): bit 0 clears the error, the only return from an error condition (R92). -/
def clearStatus (v : Word) (s : State) : State :=
  if v.getLsbD 0 then s.setStatus false 0 else s

end Sys2Proof.Machine
end

