-- ==== Sys2Proof/Machine/Codec.lean ====
section
/-! DEFINITION. The codec and tile-sheet commands: DECODE, ENCODE, ZEROSH, SETPIX, GETPIX (R63 to R72). -/

namespace Sys2Proof.Machine

/-- `byte(k)` of R64: absent bytes, at or past `min(LEN, 8192)`, read as zero. -/
def presentByte (s : State) (k : Nat) : Byte :=
  if k < min s.chrLen.toNat Config.chrBytes then s.chrByte k else 0

/-- The pixel index DECODE gives pixel (r, c) of sheet `sh`: bit 1 from plane 1, bit 0 from plane 0 (R63, R65). -/
def decodedPixel (s : State) (sh : SheetSel) (r c : Nat) : Pixel :=
  BitVec.ofBool ((presentByte s (plane1Byte sh r c)).getLsbD (bitPos c))
    ++ BitVec.ofBool ((presentByte s (plane0Byte sh r c)).getLsbD (bitPos c))

/-- DECODE (R64). -/
def execDecode (s : State) : Host.Outcome State Fault Refusal :=
  .next (s.setSheets (decodedPixel s))

/-- Eight bits as a plane byte, the first one the most significant (R50). -/
def planeByte (b : Nat → Bool) : Byte :=
  BitVec.ofBool (b 0) ++ BitVec.ofBool (b 1) ++ BitVec.ofBool (b 2) ++ BitVec.ofBool (b 3)
    ++ BitVec.ofBool (b 4) ++ BitVec.ofBool (b 5) ++ BitVec.ofBool (b 6) ++ BitVec.ofBool (b 7)

/-- Byte `k` of what ENCODE writes: row `k % 8` of tile `k / 16`, plane 0 in the tile's first eight bytes and plane 1
in its last eight (R63, R66). -/
def encodedByte (s : State) (k : Nat) : Byte :=
  let g := k / 16
  let t := g % 256
  planeByte fun x =>
    (s.pixel (sheetOf (g / 256)) (tileRow t + k % 8) (tileCol t + x)).getLsbD (k / 8 % 2)

/-- ENCODE (R66). -/
def execEncode (s : State) : Host.Outcome State Fault Refusal :=
  .next ((s.setAllChr (encodedByte s)).setChrLen 8192)

/-- ZEROSH (R67): every cell 0 is the listing of no cell. -/
def execZerosh (s : State) : Host.Outcome State Fault Refusal :=
  .next (s.setSheet [])

/-- SETPIX (R68). -/
def execSetpix (sh : SheetSel) (row col : BitVec 7) (k : Pixel) (s : State) : Host.Outcome State Fault Refusal :=
  .next (s.setPixel sh row.toNat col.toNat k)

/-- GETPIX (R70). -/
def execGetpix (sh : SheetSel) (row col : BitVec 7) (s : State) : Host.Outcome State Fault Refusal :=
  .next (s.setResult ((s.pixel sh row.toNat col.toNat).setWidth 32))

end Sys2Proof.Machine
end

