-- ==== Sys2Proof/Machine/Colorizer.lean ====
section
/-! DEFINITION. The colorizer commands: LOOKUP, COLORIZE (R78 to R82). -/

namespace Sys2Proof.Machine

/-- LOOKUP (R78). -/
def execLookup (p k : BitVec 2) (s : State) : Host.Outcome State Fault Refusal :=
  .next (s.setResult (rgbWordOf (s.colorOf p k)))

/-- COLORIZE (R80): word `i*W + j` of RGBBUF is the colour of region pixel (i, j), and an illegal region is the command
error BAD_REGION (R81). -/
def execColorize (sh : SheetSel) (p : BitVec 2) (row col : BitVec 7) (s : State) :
    Host.Outcome State Fault Refusal :=
  if regionLegal s.czSize row col then
    .next (s.fillRgb (czHeight s.czSize * czWidth s.czSize) fun n =>
      rgbWordOf (s.colorOf p (s.pixel sh (row.toNat + n / czWidth s.czSize) (col.toNat + n % czWidth s.czSize))))
  else
    .next (raiseCmdError .badRegion s)

end Sys2Proof.Machine
end

