-- ==== Sys2Proof/Machine/Palette.lean ====
section
/-! DEFINITION. The palette table commands: SETPAL, GETPAL, GETMST (R73 to R77). -/

namespace Sys2Proof.Machine

/-- SETPAL (R73). -/
def execSetpal (p k : BitVec 2) (mi : MasterIndex) (s : State) : Host.Outcome State Fault Refusal :=
  .next (s.setSubpalEntry p k mi)

/-- The four entries of a sub-palette in one word, slot k in byte k (R75, R76). -/
def packSubpal (e : BitVec 2 → MasterIndex) : Word :=
  0#2 ++ e 3 ++ 0#2 ++ e 2 ++ 0#2 ++ e 1 ++ 0#2 ++ e 0

/-- GETPAL (R75). -/
def execGetpal (p : BitVec 2) (s : State) : Host.Outcome State Fault Refusal :=
  .next (s.setResult (packSubpal (s.subpalEntry p)))

/-- GETMST (R77). -/
def execGetmst (mi : MasterIndex) (s : State) : Host.Outcome State Fault Refusal :=
  .next (s.setResult (rgbWordOf (Config.master mi)))

end Sys2Proof.Machine
end

