-- ==== Sys2Proof/Machine/Dispatch.lean ====
section
/-! DEFINITION. Which meaning runs each command (R53). -/

namespace Sys2Proof.Machine

def exec (i : Instr) (s : State) : Host.Outcome State Fault Refusal :=
  match i with
  | .decode => Sys2Proof.Machine.execDecode s
  | .encode => Sys2Proof.Machine.execEncode s
  | .zerosh => Sys2Proof.Machine.execZerosh s
  | .setpix sh row col k => Sys2Proof.Machine.execSetpix sh row col k s
  | .getpix sh row col => Sys2Proof.Machine.execGetpix sh row col s
  | .setpal p k mi => Sys2Proof.Machine.execSetpal p k mi s
  | .getpal p => Sys2Proof.Machine.execGetpal p s
  | .getmst mi => Sys2Proof.Machine.execGetmst mi s
  | .lookup p k => Sys2Proof.Machine.execLookup p k s
  | .colorize sh p row col => Sys2Proof.Machine.execColorize sh p row col s

end Sys2Proof.Machine
end

