-- ==== Sys2Proof/Machine/Bus.lean ====
section
/-! DEFINITION. Host accesses: what an offset reaches (R34, R40 to R43), what a read returns (R33, R36, R39), what a
write does (R24 to R27, R37, R39), the command a write to CMD runs (R38, R56), and the reset event (R97, R99). -/

namespace Sys2Proof.Machine

/-- The window offset of a host address, when the block answers to it (R34). -/
def windowOffset (addr : Nat) : Option Offset :=
  if Config.base ≤ addr ∧ addr < Config.base + Config.windowBytes then some (.ofNat 17 (addr - Config.base)) else none

/-- What one access reaches. -/
inductive Target where
  | cmd
  | status
  | chrLen
  | result
  | czSize
  /-- The four bytes of CHRBUF from byte `j` on (R36). -/
  | chrWord (j : Nat)
  /-- Word `i` of RGBBUF (R39). -/
  | rgbWord (i : Nat)
  /-- No supported access: wrong width, misaligned, or a reserved offset (R41, R43). -/
  | unsupported
deriving DecidableEq, Repr

/-- The address map of R34 for an access of `n` bytes. -/
def target (off : Offset) (n : Nat) : Target :=
  let o := off.toNat
  if n ≠ 4 ∨ o % 4 ≠ 0 then .unsupported
  else if o = 0x000 then .cmd
  else if o = 0x004 then .status
  else if o = 0x008 then .chrLen
  else if o = 0x00C then .result
  else if o = 0x010 then .czSize
  else if o < 0x02000 then .unsupported
  else if o < 0x04000 then .chrWord (o - 0x02000)
  else if o < 0x10000 then .unsupported
  else .rgbWord ((o - 0x10000) / 4)

/-- What a read returns (R22, R33, R36, R39, R42). It has no side effect (R44). -/
def hostRead (t : Target) (s : State) : Response :=
  match t with
  | .cmd         => .data 0
  | .status      => .data (statusWord s.err s.errcode)
  | .chrLen      => .data (s.chrLen.setWidth 32)
  | .result      => .data s.result
  | .czSize      => .data (s.czSize.setWidth 32)
  | .chrWord j   => .data (s.chrByte (j + 3) ++ s.chrByte (j + 2) ++ s.chrByte (j + 1) ++ s.chrByte j)
  | .rgbWord i   => .data (s.rgbWord i)
  | .unsupported => .busError

/-- A command word written to CMD: the checks of R56, then the command. -/
def runCommand (w : Word) (s : State) : Host.Outcome State Fault Refusal :=
  match decode w with
  | .ok i    => exec i s
  | .error e => .next (raiseCmdError e s)

/-- The four bytes of CHRBUF from byte `j` on written with `v`, little-endian (R37). -/
def storeChrWord (j : Nat) (v : Word) (s : State) : State :=
  (((s.setChrByte j (v.extractLsb' 0 8)).setChrByte (j + 1) (v.extractLsb' 8 8)).setChrByte (j + 2)
    (v.extractLsb' 16 8)).setChrByte (j + 3) (v.extractLsb' 24 8)

/-- A write with its outcome for the host. A command error is no bus error: the write completes (R83). -/
def hostWrite (t : Target) (v : Word) (s : State) : Host.Outcome State Fault Refusal :=
  let done := s.setResponse (some .done)
  match t with
  | .cmd         => runCommand v done
  | .status      => .next (clearStatus v done)
  | .chrLen      => .next (done.setChrLen (v.extractLsb' 0 14))
  | .result      => .next done
  | .czSize      => .next (done.setCzSize (v.extractLsb' 0 16))
  | .chrWord j   => .next (storeChrWord j v done)
  | .rgbWord i   => .next (done.setRgbWord i v)
  | .unsupported => .next (s.setResponse (some .busError))

/-- The reset event (R97, R99): every piece of R32 takes its reset value, CHRBUF and RGBBUF with draws of their own;
the events after it are still to come. -/
def resetState (s : State) : State := { State.reset with pending := s.pending, resets := s.resets + 1 }

/-- One event of the port. -/
def perform (e : HostEvent) (s : State) : Host.Outcome State Fault Refusal :=
  match e with
  | .memRead off n    => .next (s.setResponse (some (hostRead (target off n) s)))
  | .memWrite off n v => hostWrite (target off n) v s
  | .reset            => .next (resetState s)

end Sys2Proof.Machine
end

