-- ==== Sys2Proof/Machine/Step.lean ====
section
/-! DEFINITION. One step: the next event of the port (R6, R46). -/

namespace Sys2Proof.Machine

/-- The next event is taken from the port and performed; with none there is nothing that acts (R6; log 7). -/
def step (s : State) : Host.Outcome State Fault Refusal :=
  match s.pending with
  | []        => .next s
  | e :: rest => perform e (s.setPending rest)

/-- `s` with a 32-bit write of a command word to CMD as the port's next event: where CHRPAL takes its next command from
(R22, R38; log 5). The bits above `nbits` are 0. -/
def State.withFetchWord (s : State) (nbits w : Nat) : State :=
  s.setPending (.memWrite 0x000 4 (BitVec.ofNat 32 (w % 2 ^ min nbits 32)) :: s.pending)

end Sys2Proof.Machine
end

