-- ==== Sys2Proof/Machine/HostProgram.lean ====
section
/-! DEFINITION. Host programs: the one-access-per-line notation of R60 and the six pseudo-commands of R61, as the
events they stand for. -/

namespace Sys2Proof.Machine

/-- The window offset of each register (R21). -/
def regCMD : Offset := 0x000
/-- STATUS (R21). -/
def regSTATUS : Offset := 0x004
/-- CHR_LEN (R21). -/
def regCHRLEN : Offset := 0x008
/-- RESULT (R21). -/
def regRESULT : Offset := 0x00C
/-- CZ_SIZE (R21). -/
def regCZSIZE : Offset := 0x010
/-- `CHRBUF+n` for a byte n of CHRBUF (R60; which n a line may write is log 13). -/
def chrbufOffset (n : Nat) : Offset := .ofNat 17 (0x02000 + n)
/-- `RGBBUF+n` for a word n of RGBBUF (R60; which n a line may write is log 13). -/
def rgbbufOffset (n : Nat) : Offset := .ofNat 17 (0x10000 + 4 * n)

/-- A line of a host program (R60). -/
inductive HostLine where
  /-- `W off, value`. -/
  | write (off : Offset) (v : Word)
  /-- `R off`. -/
  | read (off : Offset)
  /-- `C command`. -/
  | command (i : Instr)
deriving DecidableEq, Repr

/-- The access a line stands for (R60). -/
def HostLine.event : HostLine → HostEvent
  | .write off v => .memWrite off 4 v
  | .read off    => .memRead off 4
  | .command i   => .memWrite regCMD 4 (encode i)

/-- `(h << 8) | w` (R61). R61 states no range for `h` and `w`: DESIGN CHOICE, log 13: both are 32-bit numbers and the
value is the low 32 bits of the result, so bits [31:24] of `h` are dropped. CZ_SIZE ignores bits [31:16] of the value
in any case (R27). -/
def sizeWord (h w : Word) : Word := h <<< 8 ||| w

/-- `LOADCHR len` (R61). -/
def loadchr (len : Word) : List HostLine := [.write regCHRLEN len, .command .decode]

/-- `CZSIZE h, w` (R61). -/
def czsize (h w : Word) : List HostLine := [.write regCZSIZE (sizeWord h w)]

/-- `COLORRECT s, p, r, c, h, w` (R61). -/
def colorrect (sh : SheetSel) (p : BitVec 2) (r c : BitVec 7) (h w : Word) : List HostLine :=
  [.write regCZSIZE (sizeWord h w), .command (.colorize sh p r c)]

/-- `COLORTILE s, p, t` (R61): tile `t` of the sheet (R11). -/
def colortile (sh : SheetSel) (p : BitVec 2) (t : BitVec 8) : List HostLine :=
  colorrect sh p (.ofNat 7 (tileRow t.toNat)) (.ofNat 7 (tileCol t.toNat)) 8 8

/-- `CLRERR` (R61). -/
def clrerr : List HostLine := [.write regSTATUS 0x1]

/-- `GETRES` (R61). -/
def getres : List HostLine := [.read regRESULT]

/-- `s` with the lines of a host program as the port's next events (R7). -/
def State.withProgram (s : State) (lines : List HostLine) : State :=
  s.setPending (lines.map HostLine.event ++ s.pending)

end Sys2Proof.Machine
end

