-- ==== Sys2Proof/Safety.lean ====
section
/-! DEFINITION. The terms claims use: the invariant of the machine, what the port's next event is, and which command
words end in an error. -/

namespace Sys2Proof.Machine

/-- The memories are in canonical form and STATUS holds a legal value (R23). -/
def Inv (s : State) : Prop := Memory.wf s = true ∧ statusLegal s.err s.errcode = true

/-- The port's next event is a supported write of the command word `w` to CMD (R22, R38). -/
def NextIsCommand (s : State) (w : Word) : Prop := s.pending.head? = some (.memWrite 0x000 4 w)

/-- The port's next event is a supported write of `v` at `off`. -/
def NextIsWrite (s : State) (off : Offset) (v : Word) : Prop := s.pending.head? = some (.memWrite off 4 v)

/-- The port's next event is a reset (R99). -/
def NextIsReset (s : State) : Prop := s.pending.head? = some .reset

/-- `s` once its next event is taken from the port and its outcome reported to the host: all that a step does to the
model's own fields for an access. -/
def answered (s : State) (rest : List HostEvent) (r : Response) : State :=
  (s.setPending rest).setResponse (some r)

/-- The error a command word ends in, if any (R56, R81, R86): it depends on the word and on CZ_SIZE alone (R85). -/
def commandError (sz : BitVec 16) (w : Word) : Option CmdError :=
  match decode w with
  | .error e                   => some e
  | .ok (.colorize _ _ row col) => if regionLegal sz row col then none else some .badRegion
  | .ok _                      => none

/-- The error of the first command of a sequence that fails, if one does (R89). -/
def firstError (sz : BitVec 16) (ws : List Word) : Option CmdError := ws.findSome? (commandError sz)

end Sys2Proof.Machine
end

