-- ==== Sys2Proof/Certificates/Slice0/Obligations.lean ====
section
/-! DEFINITION. The statements for the provers. `answered s rest r` is `s` with the performed event taken from the port
and `r` reported to the host; `s.setX v` is `s` with that one field replaced, so an equation with it is a frame of the
whole state. The model's own fields `pending` and `response` are log 5 and log 6. -/

open Sys2Proof Sys2Proof.Machine

/-! ### Encoding -/

/-- R52, R55, R59: no bit of any command's encoding is dropped by the decoder, at any operand value. -/
def Obligations.DecodeOfEncodeIsTheCommand : Prop :=
  ∀ i : Instr, decode (encode i) = .ok i

/-- R52, R55, R59: each command word has one meaning, and the encoder writes that very word. -/
def Obligations.EncodeOfDecodeIsTheWord : Prop :=
  ∀ (w : Word) (i : Instr), decode w = .ok i → encode i = w

/-- R55: a word is a command exactly when its masked bits are the command's match. -/
def Obligations.WordIsCommandWhenMaskMatches : Prop :=
  ∀ w : Word,
    (w &&& 0xFFFFFFFF = 0x00000001 ↔ decode w = .ok .decode) ∧
    (w &&& 0xFFFFFFFF = 0x00000002 ↔ decode w = .ok .encode) ∧
    (w &&& 0xFFFFFFFF = 0x00000003 ↔ decode w = .ok .zerosh) ∧
    (w &&& 0xFC8080EF = 0x00000004 ↔ ∃ s row col k, decode w = .ok (.setpix s row col k)) ∧
    (w &&& 0xFF8080EF = 0x00000005 ↔ ∃ s row col, decode w = .ok (.getpix s row col)) ∧
    (w &&& 0x00FFFF3F = 0x00000006 ↔ ∃ p k mi, decode w = .ok (.setpal p k mi)) ∧
    (w &&& 0xFFFFFF3F = 0x00000007 ↔ ∃ p, decode w = .ok (.getpal p)) ∧
    (w &&& 0x03FFFFFF = 0x00000008 ↔ ∃ mi, decode w = .ok (.getmst mi)) ∧
    (w &&& 0xFCFFFF3F = 0x00000009 ↔ ∃ p k, decode w = .ok (.lookup p k)) ∧
    (w &&& 0xFF80802F = 0x0000000A ↔ ∃ s p row col, decode w = .ok (.colorize s p row col))

/-- R52, R54: the operands of a decoded command are the word's bits at the places of the field map. -/
def Obligations.OperandsAreTheFieldBits : Prop :=
  ∀ w : Word,
    (∀ s row col k, decode w = .ok (.setpix s row col k) →
      s.toBit = w.extractLsb' 4 1 ∧ row = w.extractLsb' 8 7 ∧ col = w.extractLsb' 16 7 ∧ k = w.extractLsb' 24 2) ∧
    (∀ s row col, decode w = .ok (.getpix s row col) →
      s.toBit = w.extractLsb' 4 1 ∧ row = w.extractLsb' 8 7 ∧ col = w.extractLsb' 16 7) ∧
    (∀ p k mi, decode w = .ok (.setpal p k mi) →
      p = w.extractLsb' 6 2 ∧ k = w.extractLsb' 24 2 ∧ mi = w.extractLsb' 26 6) ∧
    (∀ p, decode w = .ok (.getpal p) → p = w.extractLsb' 6 2) ∧
    (∀ mi, decode w = .ok (.getmst mi) → mi = w.extractLsb' 26 6) ∧
    (∀ p k, decode w = .ok (.lookup p k) → p = w.extractLsb' 6 2 ∧ k = w.extractLsb' 24 2) ∧
    (∀ s p row col, decode w = .ok (.colorize s p row col) →
      s.toBit = w.extractLsb' 4 1 ∧ p = w.extractLsb' 6 2 ∧ row = w.extractLsb' 8 7 ∧ col = w.extractLsb' 16 7)

/-- R57, R58, in the order of R56: an illegal OP is reported whatever the other bits are, then a 1 in a must-be-zero bit
of a legal OP, with no other effect, and only then the command runs. -/
def Obligations.CommandChecksInOrder : Prop :=
  ∀ (w : Word) (s : State),
    ((w.extractLsb' 0 4).toNat = 0 ∨ 0xB ≤ (w.extractLsb' 0 4).toNat →
      runCommand w s = .next (raiseCmdError .illegalOp s)) ∧
    ∀ r ∈ opcodeTable, w.extractLsb' 0 4 = r.op →
      (w &&& r.mask ≠ r.pattern → runCommand w s = .next (raiseCmdError .reservedBits s)) ∧
      (w &&& r.mask = r.pattern → runCommand w s = exec (r.build w) s)

/-- Words of `95_test_vectors.md`, one of each command, decode to the command written beside them there. -/
def Obligations.SpecWordsDecode : Prop :=
  decode 0x00000001 = .ok .decode ∧ decode 0x00000002 = .ok .encode ∧ decode 0x00000003 = .ok .zerosh ∧
    decode 0x02050314 = .ok (.setpix .B 3 5 2) ∧ decode 0x00050315 = .ok (.getpix .B 3 5) ∧
    decode 0xA9000086 = .ok (.setpal 2 1 42) ∧ decode 0x00000087 = .ok (.getpal 2) ∧
    decode 0xFC000008 = .ok (.getmst 63) ∧ decode 0x01000089 = .ok (.lookup 2 1) ∧
    decode 0x007878DA = .ok (.colorize .B 3 120 120)

/-- R59: the assembler rejects a line exactly when an operand is out of range, and the word of any other line decodes to
the command with those operands. -/
def Obligations.AssembledLineKeepsItsOperands : Prop :=
  ∀ l : AsmLine,
    (l.wellFormed = false ↔ assemble l = none) ∧
    (l.wellFormed = true → ∃ w i, assemble l = some w ∧ decode w = .ok i ∧ i.line = l)

/-! ### Steps and command errors -/

/-- R22, R38, R56: a write to CMD runs the decoded command, or records why the word is none; a read of CMD gives 0 and
changes nothing. The whole state around it: the event is taken, the host's write completes. -/
def Obligations.StepRunsTheDecodedCommand : Prop :=
  ∀ (s : State) (rest : List HostEvent),
    (∀ w, s.pending = .memWrite 0x000 4 w :: rest →
      (∀ i, decode w = .ok i → step s = exec i (answered s rest .done)) ∧
      (∀ e, decode w = .error e → step s = .next (raiseCmdError e (answered s rest .done)))) ∧
    (s.pending = .memRead 0x000 4 :: rest → step s = .next (answered s rest (.data 0x00000000)))

/-- R87: ending a command in an error sets ERR, keeps the first error's code, and changes nothing else; R84 gives the
codes. -/
def Obligations.RaiseKeepsTheFirstError : Prop :=
  ∀ s : State,
    raiseCmdError .illegalOp s = s.setStatus true (if s.err then s.errcode else 1) ∧
    raiseCmdError .reservedBits s = s.setStatus true (if s.err then s.errcode else 2) ∧
    raiseCmdError .badRegion s = s.setStatus true (if s.err then s.errcode else 3)

/-- R28, R85, R87: a command write that ends in an error does exactly what raising that error does (which leaves STATUS
as it was when ERR is 1 already), and one that does not leaves STATUS alone. -/
def Obligations.StatusIsTouchedOnlyByRaisingTheError : Prop :=
  ∀ (s : State) (rest : List HostEvent) (w : Word), s.pending = .memWrite 0x000 4 w :: rest →
    (∀ e, commandError s.czSize w = some e → step s = .next (raiseCmdError e (answered s rest .done))) ∧
    (commandError s.czSize w = none → ∃ t, step s = .next t ∧ t.err = s.err ∧ t.errcode = s.errcode)

/-- R88: commands run the same whatever STATUS holds, and one that runs or fails while ERR is 1 leaves both fields as
they were. -/
def Obligations.CommandsIgnoreErr : Prop :=
  ∀ (w : Word) (s : State) (code : BitVec 4),
    ∃ t u, runCommand w s = .next t ∧ runCommand w (s.setStatus true code) = .next u ∧
      u.setStatus s.err s.errcode = t.setStatus s.err s.errcode ∧ u.err = true ∧ u.errcode = code

/-- R24: a write to STATUS clears ERR and ERRCODE when its bit 0 is 1 and changes nothing when it is 0. -/
def Obligations.StatusWriteClearsOnBitZero : Prop :=
  ∀ (s : State) (rest : List HostEvent) (v : Word), s.pending = .memWrite 0x004 4 v :: rest →
    (v.getLsbD 0 = true → step s = .next ((answered s rest .done).setStatus false 0)) ∧
    (v.getLsbD 0 = false → step s = .next (answered s rest .done))

/-! ### Host accesses -/

/-- R33: what a read of each register returns, and that nothing else changes. -/
def Obligations.RegisterReadsReturnTheFields : Prop :=
  ∀ (s : State) (rest : List HostEvent),
    (s.pending = .memRead 0x004 4 :: rest →
      step s = .next (answered s rest (.data ((s.errcode ++ 0#3 ++ BitVec.ofBool s.err).setWidth 32)))) ∧
    (s.pending = .memRead 0x008 4 :: rest → step s = .next (answered s rest (.data (s.chrLen.setWidth 32)))) ∧
    (s.pending = .memRead 0x010 4 :: rest → step s = .next (answered s rest (.data (s.czSize.setWidth 32)))) ∧
    (s.pending = .memRead 0x00C 4 :: rest → step s = .next (answered s rest (.data s.result))) ∧
    (s.pending = .memRead 0x000 4 :: rest → step s = .next (answered s rest (.data 0)))

/-- R21, R25, R26, R27: what a write of each register other than CMD and STATUS stores, and that it stores nothing
else. -/
def Obligations.RegisterWritesStoreTheFields : Prop :=
  ∀ (s : State) (rest : List HostEvent) (v : Word),
    (s.pending = .memWrite 0x008 4 v :: rest →
      step s = .next ((answered s rest .done).setChrLen (v.extractLsb' 0 14))) ∧
    (s.pending = .memWrite 0x00C 4 v :: rest → step s = .next (answered s rest .done)) ∧
    (s.pending = .memWrite 0x010 4 v :: rest → ∃ t, step s = .next t ∧ t = (answered s rest .done).setCzSize t.czSize ∧
      czWidth t.czSize = (v.extractLsb' 0 8).toNat ∧ czHeight t.czSize = (v.extractLsb' 8 8).toNat)

/-- R41, R42: an access that is not 32 bits wide or not aligned ends in a bus error and changes nothing. -/
def Obligations.UnsupportedAccessIsBusError : Prop :=
  ∀ (s : State) (rest : List HostEvent) (off : Offset) (n : Nat), (n ≠ 4 ∨ off.toNat % 4 ≠ 0) →
    (s.pending = .memRead off n :: rest → step s = .next (answered s rest .busError)) ∧
    (∀ v, s.pending = .memWrite off n v :: rest → step s = .next (answered s rest .busError))

/-- R43, R42: an access to a reserved offset ends in a bus error and changes nothing. -/
def Obligations.ReservedOffsetIsBusError : Prop :=
  ∀ (s : State) (rest : List HostEvent) (off : Offset) (n : Nat),
    (0x00014 ≤ off.toNat ∧ off.toNat ≤ 0x01FFF) ∨ (0x04000 ≤ off.toNat ∧ off.toNat ≤ 0x0FFFF) →
    (s.pending = .memRead off n :: rest → step s = .next (answered s rest .busError)) ∧
    (∀ v, s.pending = .memWrite off n v :: rest → step s = .next (answered s rest .busError))

/-- R36: a read in the CHRBUF window returns four bytes, the lowest in bits [7:0], and changes nothing. -/
def Obligations.ChrbufReadIsLittleEndian : Prop :=
  ∀ (s : State) (rest : List HostEvent) (off : Offset), 0x02000 ≤ off.toNat → off.toNat ≤ 0x03FFC → off.toNat % 4 = 0 →
    s.pending = .memRead off 4 :: rest →
    ∃ v : Word, step s = .next (answered s rest (.data v)) ∧
      ∀ b < 4, v.extractLsb' (8 * b) 8 = s.chrByte (off.toNat - 0x02000 + b)

/-- R37: a write in the CHRBUF window stores four bytes, the lowest from bits [7:0], and changes no other byte and no
other state. -/
def Obligations.ChrbufWriteIsLittleEndian : Prop :=
  ∀ (s : State) (rest : List HostEvent) (off : Offset) (v : Word), 0x02000 ≤ off.toNat → off.toNat ≤ 0x03FFC →
    off.toNat % 4 = 0 → s.pending = .memWrite off 4 v :: rest →
    ∃ t, step s = .next t ∧ t = (answered s rest .done).setChrbuf t.chrbuf ∧
      (∀ b < 4, t.chrByte (off.toNat - 0x02000 + b) = v.extractLsb' (8 * b) 8) ∧
      ∀ k, k < off.toNat - 0x02000 ∨ off.toNat - 0x02000 + 3 < k → t.chrByte k = s.chrByte k

/-- R39: accesses in the RGBBUF window read and write one whole word, and change no other word and no other state. -/
def Obligations.RgbbufAccessIsOneWord : Prop :=
  ∀ (s : State) (rest : List HostEvent) (off : Offset), 0x10000 ≤ off.toNat → off.toNat ≤ 0x1FFFC → off.toNat % 4 = 0 →
    (s.pending = .memRead off 4 :: rest →
      step s = .next (answered s rest (.data (s.rgbWord ((off.toNat - 0x10000) / 4))))) ∧
    (∀ v, s.pending = .memWrite off 4 v :: rest →
      ∃ t, step s = .next t ∧ t = (answered s rest .done).setRgbbuf t.rgbbuf ∧
        t.rgbWord ((off.toNat - 0x10000) / 4) = v ∧
        ∀ i, i ≠ (off.toNat - 0x10000) / 4 → t.rgbWord i = s.rgbWord i)

/-- R44: a read changes nothing but what the host receives, and reading again returns the same. -/
def Obligations.ReadsHaveNoSideEffect : Prop :=
  ∀ (s : State) (rest : List HostEvent) (off : Offset) (n : Nat),
    s.pending = .memRead off n :: .memRead off n :: rest →
    ∃ r, step s = .next (answered s (.memRead off n :: rest) r) ∧
      step (answered s (.memRead off n :: rest) r) = .next (answered s rest r)

/-- R34: the block answers exactly the addresses of one aligned window of 0x20000 bytes, each at its own offset. -/
def Obligations.WindowIsOneAlignedRange : Prop :=
  Config.base % 0x20000 = 0 ∧
    ∀ (addr : Nat) (off : Offset), windowOffset addr = some off ↔ addr = Config.base + off.toNat

/-- R46, R83, R105: whatever the state, a step completes and takes exactly the first event, in the port's order; with
no event it changes nothing (the model's choice, log 7). -/
def Obligations.EveryStepTakesOneEvent : Prop :=
  ∀ s : State, ∃ t, step s = .next t ∧ t.pending = s.pending.tail ∧ (s.pending = [] → t = s)

/-- R105: every sequence of accesses and resets completes. -/
def Obligations.EveryProgramCompletes : Prop :=
  ∀ s : State, ∃ t, core.run s.pending.length s = .next t ∧ t.pending = []

/-- R61: each pseudo-command stands for exactly the host accesses shown there, `(h << 8) | w` as a 32-bit value (the
model's choice where it is longer, log 13). -/
def Obligations.PseudoCommandsAreTheirAccesses : Prop :=
  ∀ (len h w : Word) (sh : SheetSel) (p : BitVec 2) (r c : BitVec 7) (t : BitVec 8),
    (loadchr len).map HostLine.event = [.memWrite 0x008 4 len, .memWrite 0x000 4 0x00000001] ∧
    (czsize h w).map HostLine.event = [.memWrite 0x010 4 (h <<< 8 ||| w)] ∧
    (colorrect sh p r c h w).map HostLine.event =
      [.memWrite 0x010 4 (h <<< 8 ||| w), .memWrite 0x000 4 (encode (.colorize sh p r c))] ∧
    colortile sh p t = colorrect sh p (.ofNat 7 (8 * (t.toNat / 16))) (.ofNat 7 (8 * (t.toNat % 16))) 8 8 ∧
    clrerr.map HostLine.event = [.memWrite 0x004 4 0x1] ∧
    getres.map HostLine.event = [.memRead 0x00C 4]

/-! ### Reset and the invariant -/

/-- R97: the reset state has every value the rule gives, SUBPAL the OPEN parameter, and CHRBUF and RGBBUF the draws of
its own reset number (free values, log 1), whatever that number is. -/
def Obligations.ResetStateHoldsTheResetValues : Prop :=
  (∀ sh r c, State.reset.pixel sh r c = 0) ∧ (∀ p k, State.reset.subpalEntry p k = Config.resetSubpal p k) ∧
    State.reset.chrLen = 0 ∧ State.reset.result = 0 ∧ State.reset.czSize = 0 ∧ State.reset.err = false ∧
    State.reset.errcode = 0 ∧ (∀ k, State.reset.chrByte k = Config.chrDraw State.reset.resets k) ∧
    (∀ i, State.reset.rgbWord i = Config.rgbDraw State.reset.resets i)

/-- R97, R99: a reset between two accesses gives every piece of state its reset value, whatever it was, with new draws
for CHRBUF and RGBBUF (log 1) and the later events still to come (log 10). -/
def Obligations.ResetEventGivesTheResetValues : Prop :=
  ∀ (s : State) (rest : List HostEvent), s.pending = .reset :: rest →
    ∃ t, step s = .next t ∧ (∀ sh r c, t.pixel sh r c = 0) ∧
      (∀ p k, t.subpalEntry p k = Config.resetSubpal p k) ∧ t.chrLen = 0 ∧ t.result = 0 ∧ t.czSize = 0 ∧
      t.err = false ∧ t.errcode = 0 ∧ (∀ k, t.chrByte k = Config.chrDraw (s.resets + 1) k) ∧
      (∀ i, t.rgbWord i = Config.rgbDraw (s.resets + 1) i) ∧ t.pending = rest

/-- R23: the reset state meets the invariant. -/
def Obligations.ResetMeetsTheInvariant : Prop := Inv State.reset

/-- R23: every step, from any state that meets it, keeps the canonical form of the memories and the legal values of
STATUS. -/
def Obligations.StepKeepsTheInvariant : Prop :=
  ∀ s t : State, Inv s → step s = .next t → Inv t

/-! ### Who changes what -/

/-- R15, R28: only DECODE, ZEROSH, SETPIX and reset change SHEET. -/
def Obligations.SheetChangesOnlyByItsWriters : Prop :=
  ∀ s t : State, step s = .next t → t.sheet ≠ s.sheet →
    NextIsReset s ∨ ∃ w, NextIsCommand s w ∧
      (decode w = .ok .decode ∨ decode w = .ok .zerosh ∨ ∃ sh row col k, decode w = .ok (.setpix sh row col k))

/-- R17, R98: only SETPAL and reset change SUBPAL. -/
def Obligations.SubpalChangesOnlyBySetpalOrReset : Prop :=
  ∀ s t : State, step s = .next t → t.subpal ≠ s.subpal →
    NextIsReset s ∨ ∃ w p k mi, NextIsCommand s w ∧ decode w = .ok (.setpal p k mi)

/-- R26: only a successful GETPIX, GETPAL, GETMST or LOOKUP, or reset, changes RESULT. -/
def Obligations.ResultChangesOnlyByTheGets : Prop :=
  ∀ s t : State, step s = .next t → t.result ≠ s.result →
    NextIsReset s ∨ ∃ w, NextIsCommand s w ∧
      ((∃ sh row col, decode w = .ok (.getpix sh row col)) ∨ (∃ p, decode w = .ok (.getpal p)) ∨
        (∃ mi, decode w = .ok (.getmst mi)) ∨ ∃ p k, decode w = .ok (.lookup p k))

/-- R35, R37, R66, R97: only ENCODE, a host write in its window, and reset change CHRBUF. -/
def Obligations.ChrbufChangesOnlyByItsWriters : Prop :=
  ∀ s t : State, step s = .next t → t.chrbuf ≠ s.chrbuf →
    NextIsReset s ∨ (∃ w, NextIsCommand s w ∧ decode w = .ok .encode) ∨
      ∃ off v, NextIsWrite s off v ∧ 0x02000 ≤ off.toNat ∧ off.toNat < 0x04000

/-- R20, R39, R97: only a COLORIZE with a legal region, a host write in its window, and reset change RGBBUF. -/
def Obligations.RgbbufChangesOnlyByItsWriters : Prop :=
  ∀ s t : State, step s = .next t → t.rgbbuf ≠ s.rgbbuf →
    NextIsReset s ∨
      (∃ w sh p row col, NextIsCommand s w ∧ decode w = .ok (.colorize sh p row col) ∧
        regionLegal s.czSize row col = true) ∨
      ∃ off v, NextIsWrite s off v ∧ 0x10000 ≤ off.toNat

/-- R23, R28: ERR is set only by a failing command and cleared only by a write of 1 to its bit or by reset. -/
def Obligations.ErrIsStickyUntilCleared : Prop :=
  ∀ s t : State, step s = .next t →
    (s.err = false → t.err = true → ∃ w e, NextIsCommand s w ∧ commandError s.czSize w = some e) ∧
    (s.err = true → t.err = false →
      NextIsReset s ∨ ∃ v, NextIsWrite s 0x004 v ∧ v.getLsbD 0 = true)

/-! ### The codec -/

/-- R64: DECODE, over the loop of its rule; nothing but SHEET changes. -/
def Obligations.DecodeUnpacksEveryTile : Prop :=
  ∀ s : State, ∃ t, exec .decode s = .next t ∧ t = s.setSheet t.sheet ∧
    ∀ g y x, g < 512 → y < 8 → x < 8 →
      let len := min s.chrLen.toNat 8192
      let byte := fun k => if k < len then (s.chrByte k).toNat else 0
      let lo := byte (16 * g + y) >>> (7 - x) &&& 1
      let hi := byte (16 * g + 8 + y) >>> (7 - x) &&& 1
      (t.pixel (sheetOf (g / 256)) (8 * (g % 256 / 16) + y) (8 * (g % 256 % 16) + x)).toNat = hi <<< 1 ||| lo

/-- R66: ENCODE, over the loop of its rule; nothing but CHRBUF and CHR_LEN changes. -/
def Obligations.EncodePacksEveryTile : Prop :=
  ∀ s : State, ∃ t, exec .encode s = .next t ∧ t = (s.setChrbuf t.chrbuf).setChrLen 8192 ∧
    ∀ g y x, g < 512 → y < 8 → x < 8 →
      let v := s.pixel (sheetOf (g / 256)) (8 * (g % 256 / 16) + y) (8 * (g % 256 % 16) + x)
      (t.chrByte (16 * g + y)).getLsbD (7 - x) = v.getLsbD 0 ∧
        (t.chrByte (16 * g + 8 + y)).getLsbD (7 - x) = v.getLsbD 1

/-- R65: the two bits of every pixel are one bit in each of two CHR bytes, for DECODE of a full buffer and for
ENCODE. -/
def Obligations.PixelBitsAreTwoChrBits : Prop :=
  ∀ (s : State) (sh : SheetSel) (r c : Nat), r < 128 → c < 128 →
    let g := 256 * sheetNumber sh + 16 * (r / 8) + c / 8
    let k0 := 16 * g + r % 8
    let k1 := 16 * g + 8 + r % 8
    (8192 ≤ s.chrLen.toNat → ∃ t, exec .decode s = .next t ∧
      (t.pixel sh r c).getLsbD 0 = (s.chrByte k0).getLsbD (7 - c % 8) ∧
      (t.pixel sh r c).getLsbD 1 = (s.chrByte k1).getLsbD (7 - c % 8)) ∧
    ∃ t, exec .encode s = .next t ∧
      (t.chrByte k0).getLsbD (7 - c % 8) = (s.pixel sh r c).getLsbD 0 ∧
      (t.chrByte k1).getLsbD (7 - c % 8) = (s.pixel sh r c).getLsbD 1

/-- R71: the five round-trip laws of the codec, for every state. -/
def Obligations.CodecRoundTripLaws : Prop :=
  ∀ s : State,
    (∃ a b, exec .encode s = .next a ∧ exec .decode a = .next b ∧
      ∀ sh r c, r < 128 → c < 128 → b.pixel sh r c = s.pixel sh r c) ∧
    (∃ a b, exec .decode s = .next a ∧ exec .encode a = .next b ∧
      (min s.chrLen.toNat 8192 = 8192 → ∀ k < 8192, b.chrByte k = s.chrByte k) ∧
      ∀ k < 8192, b.chrByte k = if k < min s.chrLen.toNat 8192 then s.chrByte k else 0x00) ∧
    (∃ a b c, exec .decode s = .next a ∧ exec .encode a = .next b ∧ exec .decode b = .next c ∧
      ∀ sh r k, r < 128 → k < 128 → c.pixel sh r k = a.pixel sh r k) ∧
    (∃ a b c, exec .encode s = .next a ∧ exec .decode a = .next b ∧ exec .encode b = .next c ∧
      ∀ k < 8192, c.chrByte k = a.chrByte k)

/-- R71, item 1, on the data: from canonical memories ENCODE then DECODE gives back the very same SHEET. -/
def Obligations.EncodeThenDecodeRestoresTheSheetData : Prop :=
  ∀ s a b : State, Memory.wf s = true → exec .encode s = .next a → exec .decode a = .next b → b.sheet = s.sheet

/-- R64: DECODE reads no byte of CHRBUF at or past its length, and all it reads otherwise is the length. -/
def Obligations.DecodeReadsOnlyThePresentBytes : Prop :=
  ∀ s u : State, u.chrLen = s.chrLen → (∀ k < min s.chrLen.toNat 8192, u.chrByte k = s.chrByte k) →
    ∃ t t', exec .decode s = .next t ∧ exec .decode u = .next t' ∧ t'.sheet = t.sheet

/-- R66: ENCODE reads the pixels and nothing else. Two states with equal pixels get the same CHRBUF and CHR_LEN from it,
and what CHRBUF and CHR_LEN held before leaves no trace in the whole state it answers. -/
def Obligations.EncodeReadsOnlyTheSheets : Prop :=
  ∀ s : State,
    (∀ u : State, (∀ sh r c, r < 128 → c < 128 → u.pixel sh r c = s.pixel sh r c) →
      ∃ t t', exec .encode s = .next t ∧ exec .encode u = .next t' ∧ t'.chrbuf = t.chrbuf ∧ t'.chrLen = t.chrLen) ∧
    ∀ (m : List Host.Cell) (len : BitVec 14), exec .encode ((s.setChrbuf m).setChrLen len) = exec .encode s

/-- R67: ZEROSH makes every cell 0 and changes nothing else, which is what DECODE does with LEN = 0. -/
def Obligations.ZeroshClearsBothSheets : Prop :=
  ∀ s : State, ∃ t, exec .zerosh s = .next t ∧ t = s.setSheet t.sheet ∧
    (∀ sh r c, r < 128 → c < 128 → t.pixel sh r c = 0) ∧ (s.chrLen = 0 → exec .decode s = .next t)

/-- R68: SETPIX writes its cell and no other, and nothing but SHEET changes. -/
def Obligations.SetpixWritesOneCell : Prop :=
  ∀ (s : State) (sh : SheetSel) (row col : BitVec 7) (k : Pixel),
    ∃ t, exec (.setpix sh row col k) s = .next t ∧ t = s.setSheet t.sheet ∧
      t.pixel sh row.toNat col.toNat = k ∧
      ∀ sh' r c, r < 128 → c < 128 → ¬(sh' = sh ∧ r = row.toNat ∧ c = col.toNat) →
        t.pixel sh' r c = s.pixel sh' r c

/-- R69: a SETPIX writes its pixel of its tile, changes pixels of that tile only, and of the next ENCODE only one bit in
each of two bytes. -/
def Obligations.SetpixTouchesOneTileAndTwoBits : Prop :=
  ∀ (s : State) (sh : SheetSel) (row col : BitVec 7) (k : Pixel),
    let tile := 16 * (row.toNat / 8) + col.toNat / 8
    ∃ t e e', exec (.setpix sh row col k) s = .next t ∧ exec .encode s = .next e ∧ exec .encode t = .next e' ∧
      t.pixel sh (8 * (tile / 16) + row.toNat % 8) (8 * (tile % 16) + col.toNat % 8) = k ∧
      (∀ sh' r c, r < 128 → c < 128 → t.pixel sh' r c ≠ s.pixel sh' r c →
        sh' = sh ∧ 16 * (r / 8) + c / 8 = tile) ∧
      ∀ j b, j < 8192 → (e'.chrByte j).getLsbD b ≠ (e.chrByte j).getLsbD b →
        b = 7 - col.toNat % 8 ∧
          (j = 16 * (256 * sheetNumber sh + tile) + row.toNat % 8 ∨
            j = 16 * (256 * sheetNumber sh + tile) + 8 + row.toNat % 8)

/-- R70: GETPIX puts its cell in RESULT, zero-extended, and changes nothing else. -/
def Obligations.GetpixReadsItsCell : Prop :=
  ∀ (s : State) (sh : SheetSel) (row col : BitVec 7),
    exec (.getpix sh row col) s = .next (s.setResult ((s.pixel sh row.toNat col.toNat).setWidth 32))

/-- R68, R70: a GETPIX after a SETPIX of the same cell returns the value set, and of another cell what it was. -/
def Obligations.GetpixAfterSetpix : Prop :=
  ∀ (s : State) (sh sh' : SheetSel) (row col row' col' : BitVec 7) (k : Pixel),
    ∃ t u, exec (.setpix sh row col k) s = .next t ∧ exec (.getpix sh' row' col') t = .next u ∧
      u.result.toNat = if sh' = sh ∧ row' = row ∧ col' = col then k.toNat
        else (s.pixel sh' row'.toNat col'.toNat).toNat

/-! ### Palettes -/

/-- R73: SETPAL writes its entry and no other, and nothing but SUBPAL changes. -/
def Obligations.SetpalWritesOneEntry : Prop :=
  ∀ (s : State) (p k : BitVec 2) (mi : MasterIndex),
    ∃ t, exec (.setpal p k mi) s = .next t ∧ t = s.setSubpal t.subpal ∧ t.subpalEntry p k = mi ∧
      ∀ p' k', ¬(p' = p ∧ k' = k) → t.subpalEntry p' k' = s.subpalEntry p' k'

/-- R75, R76: GETPAL puts slot k in bits [8k+5:8k] of RESULT, the two bits above it 0, and changes nothing else. -/
def Obligations.GetpalPacksFourEntries : Prop :=
  ∀ (s : State) (p : BitVec 2),
    ∃ t, exec (.getpal p) s = .next t ∧ t = s.setResult t.result ∧
      ∀ k : BitVec 2, t.result.extractLsb' (8 * k.toNat) 6 = s.subpalEntry p k ∧
        t.result.extractLsb' (8 * k.toNat + 6) 2 = 0#2

/-- R77, R31: GETMST puts the RGB word of a master colour in RESULT and changes nothing else. -/
def Obligations.GetmstReadsTheMasterColor : Prop :=
  ∀ (s : State) (mi : MasterIndex),
    exec (.getmst mi) s = .next (s.setResult ((Config.master mi).setWidth 32))

/-- R74: a SETPAL is seen by the next GETPAL, LOOKUP and COLORIZE and leaves the RGBBUF words and SHEET as they were. -/
def Obligations.SetpalIsSeenByLaterCommands : Prop :=
  ∀ (s : State) (p k : BitVec 2) (mi : MasterIndex),
    ∃ t, exec (.setpal p k mi) s = .next t ∧ t.sheet = s.sheet ∧ (∀ i, t.rgbWord i = s.rgbWord i) ∧
      (∃ u, exec (.getpal p) t = .next u ∧ u.result.extractLsb' (8 * k.toNat) 6 = mi) ∧
      (∃ u, exec (.lookup p k) t = .next u ∧ u.result = (Config.master mi).setWidth 32) ∧
      ∀ sh row col, regionLegal s.czSize row col = true → s.pixel sh row.toNat col.toNat = k →
        ∃ u, exec (.colorize sh p row col) t = .next u ∧ u.rgbWord 0 = (Config.master mi).setWidth 32

/-! ### The colorizer -/

/-- R78, R79: LOOKUP puts `MASTER[SUBPAL[P][K]]` in RESULT and changes nothing else. -/
def Obligations.LookupIsTheTwoStageTable : Prop :=
  ∀ (s : State) (p k : BitVec 2),
    exec (.lookup p k) s = .next (s.setResult ((Config.master (s.subpalEntry p k)).setWidth 32))

/-- R80: a COLORIZE of a legal region writes its H*W words, packed with stride W, keeps every other word, and changes
nothing but RGBBUF. -/
def Obligations.ColorizeWritesTheRegion : Prop :=
  ∀ (s : State) (sh : SheetSel) (p : BitVec 2) (row col : BitVec 7),
    let h := (s.czSize.extractLsb' 8 8).toNat
    let w := (s.czSize.extractLsb' 0 8).toNat
    1 ≤ h → h ≤ 128 → 1 ≤ w → w ≤ 128 → row.toNat + h ≤ 128 → col.toNat + w ≤ 128 →
    ∃ t, exec (.colorize sh p row col) s = .next t ∧ t = s.setRgbbuf t.rgbbuf ∧
      (∀ i j, i < h → j < w → t.rgbWord (i * w + j) =
        (Config.master (s.subpalEntry p (s.pixel sh (row.toNat + i) (col.toNat + j)))).setWidth 32) ∧
      ∀ n, h * w ≤ n → t.rgbWord n = s.rgbWord n

/-- R81: a COLORIZE of a region that breaks any of the four conditions is BAD_REGION, code 3, and does nothing else. -/
def Obligations.ColorizeOffTheSheetIsBadRegion : Prop :=
  ∀ (s : State) (sh : SheetSel) (p : BitVec 2) (row col : BitVec 7),
    let h := (s.czSize.extractLsb' 8 8).toNat
    let w := (s.czSize.extractLsb' 0 8).toNat
    ¬(1 ≤ h ∧ h ≤ 128 ∧ 1 ≤ w ∧ w ≤ 128 ∧ row.toNat + h ≤ 128 ∧ col.toNat + w ≤ 128) →
    exec (.colorize sh p row col) s = .next (s.setStatus true (if s.err then s.errcode else 3))

/-- R82: a COLORIZE output is, pixel for pixel, what LOOKUP returns for the region's pixel indices. -/
def Obligations.ColorizeIsLookupPerPixel : Prop :=
  ∀ (s : State) (sh : SheetSel) (p : BitVec 2) (row col : BitVec 7) (i j : Nat),
    regionLegal s.czSize row col = true → i < czHeight s.czSize → j < czWidth s.czSize →
    ∃ t u, exec (.colorize sh p row col) s = .next t ∧
      exec (.lookup p (s.pixel sh (row.toNat + i) (col.toNat + j))) s = .next u ∧
      t.rgbWord (i * czWidth s.czSize + j) = u.result

/-- R61, R11: COLORTILE puts the 64 pixels of tile t, row by row, in the first 64 words of RGBBUF. -/
def Obligations.ColortileColorsOneTile : Prop :=
  ∀ (s : State) (sh : SheetSel) (p : BitVec 2) (t : BitVec 8),
    ∃ u, core.run 2 (s.withProgram (colortile sh p t)) = .next u ∧ u.pending = s.pending ∧
      ∀ y x, y < 8 → x < 8 → u.rgbWord (8 * y + x) =
        (Config.master (s.subpalEntry p (s.pixel sh (8 * (t.toNat / 16) + y) (8 * (t.toNat % 16) + x)))).setWidth 32

/-! ### Whole sequences -/

/-- R44: running a command twice is running it once, a failing one included. -/
def Obligations.CommandsAreIdempotent : Prop :=
  ∀ (w : Word) (s t : State), runCommand w s = .next t → runCommand w t = .next t

/-- R89: after a clear of STATUS and any sequence of command writes, reading STATUS gives ERR = 0 when every command
succeeded, and else ERR = 1 with the code of the first that failed. -/
def Obligations.StatusReportsTheFirstFailure : Prop :=
  ∀ (s : State) (ws : List Word) (rest : List HostEvent),
    s.pending = .memWrite 0x004 4 1 :: (ws.map (.memWrite 0x000 4 ·) ++ .memRead 0x004 4 :: rest) →
    ∃ t, core.run (ws.length + 2) s = .next t ∧ t.pending = rest ∧
      match firstError s.czSize ws with
      | none   => t.response = some (.data 0x00000000)
      | some e => ∃ v : Word, t.response = some (.data v) ∧ v.getLsbD 0 = true ∧ v.extractLsb' 4 4 = errorCode e
end

