-- ==== Sys2Proof/Laws/Operands.lean ====
section
/-! SUPPORT. The arithmetic of cells, tiles and plane bytes: cells are numbered without collision, and the byte and bit
of R65 meet the tile placement of R11 and R12. -/

namespace Sys2Proof.Machine

theorem sheetNumber_le (sh : SheetSel) : sheetNumber sh ≤ 1 := by cases sh <;> simp [sheetNumber]

theorem sheetNumber_sheetOf {n : Nat} (h : n < 2) : sheetNumber (sheetOf n) = n := by
  have : n = 0 ∨ n = 1 := by omega
  rcases this with rfl | rfl <;> rfl

theorem sheetOf_sheetNumber (sh : SheetSel) : sheetOf (sheetNumber sh) = sh := by cases sh <;> rfl

theorem sheetNumber_inj {a b : SheetSel} : sheetNumber a = sheetNumber b ↔ a = b := by
  cases a <;> cases b <;> simp [sheetNumber]

theorem cellKey_lt {sh : SheetSel} {r c : Nat} (hr : r < 128) (hc : c < 128) : cellKey sh r c < 32768 := by
  have := sheetNumber_le sh
  unfold cellKey; omega

theorem cellKey_inj {sh sh' : SheetSel} {r c r' c' : Nat} (hr : r < 128) (hc : c < 128) (hr' : r' < 128)
    (hc' : c' < 128) : cellKey sh r c = cellKey sh' r' c' ↔ sh = sh' ∧ r = r' ∧ c = c' := by
  have := sheetNumber_le sh
  have := sheetNumber_le sh'
  rw [← sheetNumber_inj (a := sh)]
  unfold cellKey; omega

theorem cellSheet_cellKey {sh : SheetSel} {r c : Nat} (hr : r < 128) (hc : c < 128) :
    cellSheet (cellKey sh r c) = sh := by
  have h : (16384 * sheetNumber sh + 128 * r + c) / 16384 = sheetNumber sh := by omega
  rw [cellSheet, cellKey, h, sheetOf_sheetNumber]

theorem cellRow_cellKey {sh : SheetSel} {r c : Nat} (hr : r < 128) (hc : c < 128) :
    cellRow (cellKey sh r c) = r := by
  have := sheetNumber_le sh
  unfold cellRow cellKey; omega

theorem cellCol_cellKey {sh : SheetSel} {r c : Nat} (hc : c < 128) : cellCol (cellKey sh r c) = c := by
  unfold cellCol cellKey; omega

theorem cellKey_cell {k : Nat} (hk : k < 32768) : cellKey (cellSheet k) (cellRow k) (cellCol k) = k := by
  rw [cellKey, cellSheet, sheetNumber_sheetOf (by omega), cellRow, cellCol]; omega

theorem tileOf_lt {sh : SheetSel} {r c : Nat} (hr : r < 128) (hc : c < 128) : tileOf sh r c < 512 := by
  have := sheetNumber_le sh
  unfold tileOf; omega

theorem plane0Byte_lt {sh : SheetSel} {r c : Nat} (hr : r < 128) (hc : c < 128) : plane0Byte sh r c < 8192 := by
  have := tileOf_lt (sh := sh) hr hc
  unfold plane0Byte; omega

theorem plane1Byte_lt {sh : SheetSel} {r c : Nat} (hr : r < 128) (hc : c < 128) : plane1Byte sh r c < 8192 := by
  have := tileOf_lt (sh := sh) hr hc
  unfold plane1Byte; omega

/-- The tile and the place in it of a pixel give the pixel back (R11, R12). -/
theorem tile_of_pixel {sh : SheetSel} {r c : Nat} (hr : r < 128) (hc : c < 128) :
    sheetOf (tileOf sh r c / 256) = sh ∧ tileRow (tileOf sh r c % 256) + r % 8 = r ∧
      tileCol (tileOf sh r c % 256) + c % 8 = c := by
  have h : (256 * sheetNumber sh + 16 * (r / 8) + c / 8) / 256 = sheetNumber sh := by omega
  have hn := sheetNumber_le sh
  refine ⟨by rw [tileOf, h, sheetOf_sheetNumber], ?_, ?_⟩
  · unfold tileOf tileRow; omega
  · unfold tileOf tileCol; omega

/-- The tile of the pixel that stands at row y and column x of tile g is g (R11, R12). -/
theorem tileOf_tile {g y x : Nat} (hg : g < 512) (hy : y < 8) (hx : x < 8) :
    tileOf (sheetOf (g / 256)) (tileRow (g % 256) + y) (tileCol (g % 256) + x) = g := by
  rw [tileOf, sheetNumber_sheetOf (by omega), tileRow, tileCol]; omega

/-- Pixels of a tile lie on the sheet (R11). -/
theorem tile_in_sheet {g y x : Nat} (hy : y < 8) (hx : x < 8) :
    tileRow (g % 256) + y < 128 ∧ tileCol (g % 256) + x < 128 := by
  unfold tileRow tileCol; omega

/-- A region is legal exactly under the four conditions of R81. -/
theorem regionLegal_iff {sz : BitVec 16} {row col : BitVec 7} :
    regionLegal sz row col = true ↔
      (1 ≤ czHeight sz ∧ czHeight sz ≤ 128) ∧ (1 ≤ czWidth sz ∧ czWidth sz ≤ 128) ∧
        row.toNat + czHeight sz ≤ 128 ∧ col.toNat + czWidth sz ≤ 128 := by
  simp [regionLegal, and_assoc]

end Sys2Proof.Machine
end

