-- ==== Sys2Proof/Laws/State.lean ====
section
/-! SUPPORT. One lemma per field per update of the state, and one per memory view an update does not reach: no later
proof unfolds a record update. -/

namespace Sys2Proof.Machine.State

variable (s : State)

/-! ### setSheet -/

@[simp] theorem setSheet_sheet (m : Store 2) : (s.setSheet m).sheet = m := rfl
@[simp] theorem setSheet_subpal (m : Store 2) : (s.setSheet m).subpal = s.subpal := rfl
@[simp] theorem setSheet_chrbuf (m : Store 2) : (s.setSheet m).chrbuf = s.chrbuf := rfl
@[simp] theorem setSheet_rgbbuf (m : Store 2) : (s.setSheet m).rgbbuf = s.rgbbuf := rfl
@[simp] theorem setSheet_chrLen (m : Store 2) : (s.setSheet m).chrLen = s.chrLen := rfl
@[simp] theorem setSheet_result (m : Store 2) : (s.setSheet m).result = s.result := rfl
@[simp] theorem setSheet_czSize (m : Store 2) : (s.setSheet m).czSize = s.czSize := rfl
@[simp] theorem setSheet_err (m : Store 2) : (s.setSheet m).err = s.err := rfl
@[simp] theorem setSheet_errcode (m : Store 2) : (s.setSheet m).errcode = s.errcode := rfl
@[simp] theorem setSheet_pending (m : Store 2) : (s.setSheet m).pending = s.pending := rfl
@[simp] theorem setSheet_response (m : Store 2) : (s.setSheet m).response = s.response := rfl
@[simp] theorem setSheet_resets (m : Store 2) : (s.setSheet m).resets = s.resets := rfl
@[simp] theorem setSheet_subpalEntry (m : Store 2) (p k : BitVec 2) : (s.setSheet m).subpalEntry p k = s.subpalEntry p k := rfl
@[simp] theorem setSheet_chrByte (m : Store 2) (k : Nat) : (s.setSheet m).chrByte k = s.chrByte k := rfl
@[simp] theorem setSheet_rgbWord (m : Store 2) (i : Nat) : (s.setSheet m).rgbWord i = s.rgbWord i := rfl

theorem setSheet_self : s.setSheet s.sheet = s := rfl

/-! ### setSubpal -/

@[simp] theorem setSubpal_sheet (v : Vector (Vector MasterIndex 4) 4) : (s.setSubpal v).sheet = s.sheet := rfl
@[simp] theorem setSubpal_subpal (v : Vector (Vector MasterIndex 4) 4) : (s.setSubpal v).subpal = v := rfl
@[simp] theorem setSubpal_chrbuf (v : Vector (Vector MasterIndex 4) 4) : (s.setSubpal v).chrbuf = s.chrbuf := rfl
@[simp] theorem setSubpal_rgbbuf (v : Vector (Vector MasterIndex 4) 4) : (s.setSubpal v).rgbbuf = s.rgbbuf := rfl
@[simp] theorem setSubpal_chrLen (v : Vector (Vector MasterIndex 4) 4) : (s.setSubpal v).chrLen = s.chrLen := rfl
@[simp] theorem setSubpal_result (v : Vector (Vector MasterIndex 4) 4) : (s.setSubpal v).result = s.result := rfl
@[simp] theorem setSubpal_czSize (v : Vector (Vector MasterIndex 4) 4) : (s.setSubpal v).czSize = s.czSize := rfl
@[simp] theorem setSubpal_err (v : Vector (Vector MasterIndex 4) 4) : (s.setSubpal v).err = s.err := rfl
@[simp] theorem setSubpal_errcode (v : Vector (Vector MasterIndex 4) 4) : (s.setSubpal v).errcode = s.errcode := rfl
@[simp] theorem setSubpal_pending (v : Vector (Vector MasterIndex 4) 4) : (s.setSubpal v).pending = s.pending := rfl
@[simp] theorem setSubpal_response (v : Vector (Vector MasterIndex 4) 4) : (s.setSubpal v).response = s.response := rfl
@[simp] theorem setSubpal_resets (v : Vector (Vector MasterIndex 4) 4) : (s.setSubpal v).resets = s.resets := rfl
@[simp] theorem setSubpal_pixel (v : Vector (Vector MasterIndex 4) 4) (sh : SheetSel) (r c : Nat) : (s.setSubpal v).pixel sh r c = s.pixel sh r c := rfl
@[simp] theorem setSubpal_chrByte (v : Vector (Vector MasterIndex 4) 4) (k : Nat) : (s.setSubpal v).chrByte k = s.chrByte k := rfl
@[simp] theorem setSubpal_rgbWord (v : Vector (Vector MasterIndex 4) 4) (i : Nat) : (s.setSubpal v).rgbWord i = s.rgbWord i := rfl

theorem setSubpal_self : s.setSubpal s.subpal = s := rfl

/-! ### setChrbuf -/

@[simp] theorem setChrbuf_sheet (m : List Host.Cell) : (s.setChrbuf m).sheet = s.sheet := rfl
@[simp] theorem setChrbuf_subpal (m : List Host.Cell) : (s.setChrbuf m).subpal = s.subpal := rfl
@[simp] theorem setChrbuf_chrbuf (m : List Host.Cell) : (s.setChrbuf m).chrbuf = m := rfl
@[simp] theorem setChrbuf_rgbbuf (m : List Host.Cell) : (s.setChrbuf m).rgbbuf = s.rgbbuf := rfl
@[simp] theorem setChrbuf_chrLen (m : List Host.Cell) : (s.setChrbuf m).chrLen = s.chrLen := rfl
@[simp] theorem setChrbuf_result (m : List Host.Cell) : (s.setChrbuf m).result = s.result := rfl
@[simp] theorem setChrbuf_czSize (m : List Host.Cell) : (s.setChrbuf m).czSize = s.czSize := rfl
@[simp] theorem setChrbuf_err (m : List Host.Cell) : (s.setChrbuf m).err = s.err := rfl
@[simp] theorem setChrbuf_errcode (m : List Host.Cell) : (s.setChrbuf m).errcode = s.errcode := rfl
@[simp] theorem setChrbuf_pending (m : List Host.Cell) : (s.setChrbuf m).pending = s.pending := rfl
@[simp] theorem setChrbuf_response (m : List Host.Cell) : (s.setChrbuf m).response = s.response := rfl
@[simp] theorem setChrbuf_resets (m : List Host.Cell) : (s.setChrbuf m).resets = s.resets := rfl
@[simp] theorem setChrbuf_pixel (m : List Host.Cell) (sh : SheetSel) (r c : Nat) : (s.setChrbuf m).pixel sh r c = s.pixel sh r c := rfl
@[simp] theorem setChrbuf_subpalEntry (m : List Host.Cell) (p k : BitVec 2) : (s.setChrbuf m).subpalEntry p k = s.subpalEntry p k := rfl
@[simp] theorem setChrbuf_rgbWord (m : List Host.Cell) (i : Nat) : (s.setChrbuf m).rgbWord i = s.rgbWord i := rfl

theorem setChrbuf_self : s.setChrbuf s.chrbuf = s := rfl

/-! ### setRgbbuf -/

@[simp] theorem setRgbbuf_sheet (m : Store 32) : (s.setRgbbuf m).sheet = s.sheet := rfl
@[simp] theorem setRgbbuf_subpal (m : Store 32) : (s.setRgbbuf m).subpal = s.subpal := rfl
@[simp] theorem setRgbbuf_chrbuf (m : Store 32) : (s.setRgbbuf m).chrbuf = s.chrbuf := rfl
@[simp] theorem setRgbbuf_rgbbuf (m : Store 32) : (s.setRgbbuf m).rgbbuf = m := rfl
@[simp] theorem setRgbbuf_chrLen (m : Store 32) : (s.setRgbbuf m).chrLen = s.chrLen := rfl
@[simp] theorem setRgbbuf_result (m : Store 32) : (s.setRgbbuf m).result = s.result := rfl
@[simp] theorem setRgbbuf_czSize (m : Store 32) : (s.setRgbbuf m).czSize = s.czSize := rfl
@[simp] theorem setRgbbuf_err (m : Store 32) : (s.setRgbbuf m).err = s.err := rfl
@[simp] theorem setRgbbuf_errcode (m : Store 32) : (s.setRgbbuf m).errcode = s.errcode := rfl
@[simp] theorem setRgbbuf_pending (m : Store 32) : (s.setRgbbuf m).pending = s.pending := rfl
@[simp] theorem setRgbbuf_response (m : Store 32) : (s.setRgbbuf m).response = s.response := rfl
@[simp] theorem setRgbbuf_resets (m : Store 32) : (s.setRgbbuf m).resets = s.resets := rfl
@[simp] theorem setRgbbuf_pixel (m : Store 32) (sh : SheetSel) (r c : Nat) : (s.setRgbbuf m).pixel sh r c = s.pixel sh r c := rfl
@[simp] theorem setRgbbuf_subpalEntry (m : Store 32) (p k : BitVec 2) : (s.setRgbbuf m).subpalEntry p k = s.subpalEntry p k := rfl
@[simp] theorem setRgbbuf_chrByte (m : Store 32) (k : Nat) : (s.setRgbbuf m).chrByte k = s.chrByte k := rfl

theorem setRgbbuf_self : s.setRgbbuf s.rgbbuf = s := rfl

/-! ### setChrLen -/

@[simp] theorem setChrLen_sheet (v : BitVec 14) : (s.setChrLen v).sheet = s.sheet := rfl
@[simp] theorem setChrLen_subpal (v : BitVec 14) : (s.setChrLen v).subpal = s.subpal := rfl
@[simp] theorem setChrLen_chrbuf (v : BitVec 14) : (s.setChrLen v).chrbuf = s.chrbuf := rfl
@[simp] theorem setChrLen_rgbbuf (v : BitVec 14) : (s.setChrLen v).rgbbuf = s.rgbbuf := rfl
@[simp] theorem setChrLen_chrLen (v : BitVec 14) : (s.setChrLen v).chrLen = v := rfl
@[simp] theorem setChrLen_result (v : BitVec 14) : (s.setChrLen v).result = s.result := rfl
@[simp] theorem setChrLen_czSize (v : BitVec 14) : (s.setChrLen v).czSize = s.czSize := rfl
@[simp] theorem setChrLen_err (v : BitVec 14) : (s.setChrLen v).err = s.err := rfl
@[simp] theorem setChrLen_errcode (v : BitVec 14) : (s.setChrLen v).errcode = s.errcode := rfl
@[simp] theorem setChrLen_pending (v : BitVec 14) : (s.setChrLen v).pending = s.pending := rfl
@[simp] theorem setChrLen_response (v : BitVec 14) : (s.setChrLen v).response = s.response := rfl
@[simp] theorem setChrLen_resets (v : BitVec 14) : (s.setChrLen v).resets = s.resets := rfl
@[simp] theorem setChrLen_pixel (v : BitVec 14) (sh : SheetSel) (r c : Nat) : (s.setChrLen v).pixel sh r c = s.pixel sh r c := rfl
@[simp] theorem setChrLen_subpalEntry (v : BitVec 14) (p k : BitVec 2) : (s.setChrLen v).subpalEntry p k = s.subpalEntry p k := rfl
@[simp] theorem setChrLen_chrByte (v : BitVec 14) (k : Nat) : (s.setChrLen v).chrByte k = s.chrByte k := rfl
@[simp] theorem setChrLen_rgbWord (v : BitVec 14) (i : Nat) : (s.setChrLen v).rgbWord i = s.rgbWord i := rfl

theorem setChrLen_self : s.setChrLen s.chrLen = s := rfl

/-! ### setResult -/

@[simp] theorem setResult_sheet (v : Word) : (s.setResult v).sheet = s.sheet := rfl
@[simp] theorem setResult_subpal (v : Word) : (s.setResult v).subpal = s.subpal := rfl
@[simp] theorem setResult_chrbuf (v : Word) : (s.setResult v).chrbuf = s.chrbuf := rfl
@[simp] theorem setResult_rgbbuf (v : Word) : (s.setResult v).rgbbuf = s.rgbbuf := rfl
@[simp] theorem setResult_chrLen (v : Word) : (s.setResult v).chrLen = s.chrLen := rfl
@[simp] theorem setResult_result (v : Word) : (s.setResult v).result = v := rfl
@[simp] theorem setResult_czSize (v : Word) : (s.setResult v).czSize = s.czSize := rfl
@[simp] theorem setResult_err (v : Word) : (s.setResult v).err = s.err := rfl
@[simp] theorem setResult_errcode (v : Word) : (s.setResult v).errcode = s.errcode := rfl
@[simp] theorem setResult_pending (v : Word) : (s.setResult v).pending = s.pending := rfl
@[simp] theorem setResult_response (v : Word) : (s.setResult v).response = s.response := rfl
@[simp] theorem setResult_resets (v : Word) : (s.setResult v).resets = s.resets := rfl
@[simp] theorem setResult_pixel (v : Word) (sh : SheetSel) (r c : Nat) : (s.setResult v).pixel sh r c = s.pixel sh r c := rfl
@[simp] theorem setResult_subpalEntry (v : Word) (p k : BitVec 2) : (s.setResult v).subpalEntry p k = s.subpalEntry p k := rfl
@[simp] theorem setResult_chrByte (v : Word) (k : Nat) : (s.setResult v).chrByte k = s.chrByte k := rfl
@[simp] theorem setResult_rgbWord (v : Word) (i : Nat) : (s.setResult v).rgbWord i = s.rgbWord i := rfl

theorem setResult_self : s.setResult s.result = s := rfl

/-! ### setCzSize -/

@[simp] theorem setCzSize_sheet (v : BitVec 16) : (s.setCzSize v).sheet = s.sheet := rfl
@[simp] theorem setCzSize_subpal (v : BitVec 16) : (s.setCzSize v).subpal = s.subpal := rfl
@[simp] theorem setCzSize_chrbuf (v : BitVec 16) : (s.setCzSize v).chrbuf = s.chrbuf := rfl
@[simp] theorem setCzSize_rgbbuf (v : BitVec 16) : (s.setCzSize v).rgbbuf = s.rgbbuf := rfl
@[simp] theorem setCzSize_chrLen (v : BitVec 16) : (s.setCzSize v).chrLen = s.chrLen := rfl
@[simp] theorem setCzSize_result (v : BitVec 16) : (s.setCzSize v).result = s.result := rfl
@[simp] theorem setCzSize_czSize (v : BitVec 16) : (s.setCzSize v).czSize = v := rfl
@[simp] theorem setCzSize_err (v : BitVec 16) : (s.setCzSize v).err = s.err := rfl
@[simp] theorem setCzSize_errcode (v : BitVec 16) : (s.setCzSize v).errcode = s.errcode := rfl
@[simp] theorem setCzSize_pending (v : BitVec 16) : (s.setCzSize v).pending = s.pending := rfl
@[simp] theorem setCzSize_response (v : BitVec 16) : (s.setCzSize v).response = s.response := rfl
@[simp] theorem setCzSize_resets (v : BitVec 16) : (s.setCzSize v).resets = s.resets := rfl
@[simp] theorem setCzSize_pixel (v : BitVec 16) (sh : SheetSel) (r c : Nat) : (s.setCzSize v).pixel sh r c = s.pixel sh r c := rfl
@[simp] theorem setCzSize_subpalEntry (v : BitVec 16) (p k : BitVec 2) : (s.setCzSize v).subpalEntry p k = s.subpalEntry p k := rfl
@[simp] theorem setCzSize_chrByte (v : BitVec 16) (k : Nat) : (s.setCzSize v).chrByte k = s.chrByte k := rfl
@[simp] theorem setCzSize_rgbWord (v : BitVec 16) (i : Nat) : (s.setCzSize v).rgbWord i = s.rgbWord i := rfl

theorem setCzSize_self : s.setCzSize s.czSize = s := rfl

/-! ### setStatus -/

@[simp] theorem setStatus_sheet (e : Bool) (code : BitVec 4) : (s.setStatus e code).sheet = s.sheet := rfl
@[simp] theorem setStatus_subpal (e : Bool) (code : BitVec 4) : (s.setStatus e code).subpal = s.subpal := rfl
@[simp] theorem setStatus_chrbuf (e : Bool) (code : BitVec 4) : (s.setStatus e code).chrbuf = s.chrbuf := rfl
@[simp] theorem setStatus_rgbbuf (e : Bool) (code : BitVec 4) : (s.setStatus e code).rgbbuf = s.rgbbuf := rfl
@[simp] theorem setStatus_chrLen (e : Bool) (code : BitVec 4) : (s.setStatus e code).chrLen = s.chrLen := rfl
@[simp] theorem setStatus_result (e : Bool) (code : BitVec 4) : (s.setStatus e code).result = s.result := rfl
@[simp] theorem setStatus_czSize (e : Bool) (code : BitVec 4) : (s.setStatus e code).czSize = s.czSize := rfl
@[simp] theorem setStatus_err (e : Bool) (code : BitVec 4) : (s.setStatus e code).err = e := rfl
@[simp] theorem setStatus_errcode (e : Bool) (code : BitVec 4) : (s.setStatus e code).errcode = code := rfl
@[simp] theorem setStatus_pending (e : Bool) (code : BitVec 4) : (s.setStatus e code).pending = s.pending := rfl
@[simp] theorem setStatus_response (e : Bool) (code : BitVec 4) : (s.setStatus e code).response = s.response := rfl
@[simp] theorem setStatus_resets (e : Bool) (code : BitVec 4) : (s.setStatus e code).resets = s.resets := rfl
@[simp] theorem setStatus_pixel (e : Bool) (code : BitVec 4) (sh : SheetSel) (r c : Nat) : (s.setStatus e code).pixel sh r c = s.pixel sh r c := rfl
@[simp] theorem setStatus_subpalEntry (e : Bool) (code : BitVec 4) (p k : BitVec 2) : (s.setStatus e code).subpalEntry p k = s.subpalEntry p k := rfl
@[simp] theorem setStatus_chrByte (e : Bool) (code : BitVec 4) (k : Nat) : (s.setStatus e code).chrByte k = s.chrByte k := rfl
@[simp] theorem setStatus_rgbWord (e : Bool) (code : BitVec 4) (i : Nat) : (s.setStatus e code).rgbWord i = s.rgbWord i := rfl

theorem setStatus_self : s.setStatus s.err s.errcode = s := rfl

/-! ### setPending -/

@[simp] theorem setPending_sheet (q : List HostEvent) : (s.setPending q).sheet = s.sheet := rfl
@[simp] theorem setPending_subpal (q : List HostEvent) : (s.setPending q).subpal = s.subpal := rfl
@[simp] theorem setPending_chrbuf (q : List HostEvent) : (s.setPending q).chrbuf = s.chrbuf := rfl
@[simp] theorem setPending_rgbbuf (q : List HostEvent) : (s.setPending q).rgbbuf = s.rgbbuf := rfl
@[simp] theorem setPending_chrLen (q : List HostEvent) : (s.setPending q).chrLen = s.chrLen := rfl
@[simp] theorem setPending_result (q : List HostEvent) : (s.setPending q).result = s.result := rfl
@[simp] theorem setPending_czSize (q : List HostEvent) : (s.setPending q).czSize = s.czSize := rfl
@[simp] theorem setPending_err (q : List HostEvent) : (s.setPending q).err = s.err := rfl
@[simp] theorem setPending_errcode (q : List HostEvent) : (s.setPending q).errcode = s.errcode := rfl
@[simp] theorem setPending_pending (q : List HostEvent) : (s.setPending q).pending = q := rfl
@[simp] theorem setPending_response (q : List HostEvent) : (s.setPending q).response = s.response := rfl
@[simp] theorem setPending_resets (q : List HostEvent) : (s.setPending q).resets = s.resets := rfl
@[simp] theorem setPending_pixel (q : List HostEvent) (sh : SheetSel) (r c : Nat) : (s.setPending q).pixel sh r c = s.pixel sh r c := rfl
@[simp] theorem setPending_subpalEntry (q : List HostEvent) (p k : BitVec 2) : (s.setPending q).subpalEntry p k = s.subpalEntry p k := rfl
@[simp] theorem setPending_chrByte (q : List HostEvent) (k : Nat) : (s.setPending q).chrByte k = s.chrByte k := rfl
@[simp] theorem setPending_rgbWord (q : List HostEvent) (i : Nat) : (s.setPending q).rgbWord i = s.rgbWord i := rfl

theorem setPending_self : s.setPending s.pending = s := rfl

/-! ### setResponse -/

@[simp] theorem setResponse_sheet (r : Option Response) : (s.setResponse r).sheet = s.sheet := rfl
@[simp] theorem setResponse_subpal (r : Option Response) : (s.setResponse r).subpal = s.subpal := rfl
@[simp] theorem setResponse_chrbuf (r : Option Response) : (s.setResponse r).chrbuf = s.chrbuf := rfl
@[simp] theorem setResponse_rgbbuf (r : Option Response) : (s.setResponse r).rgbbuf = s.rgbbuf := rfl
@[simp] theorem setResponse_chrLen (r : Option Response) : (s.setResponse r).chrLen = s.chrLen := rfl
@[simp] theorem setResponse_result (r : Option Response) : (s.setResponse r).result = s.result := rfl
@[simp] theorem setResponse_czSize (r : Option Response) : (s.setResponse r).czSize = s.czSize := rfl
@[simp] theorem setResponse_err (r : Option Response) : (s.setResponse r).err = s.err := rfl
@[simp] theorem setResponse_errcode (r : Option Response) : (s.setResponse r).errcode = s.errcode := rfl
@[simp] theorem setResponse_pending (r : Option Response) : (s.setResponse r).pending = s.pending := rfl
@[simp] theorem setResponse_response (r : Option Response) : (s.setResponse r).response = r := rfl
@[simp] theorem setResponse_resets (r : Option Response) : (s.setResponse r).resets = s.resets := rfl
@[simp] theorem setResponse_pixel (r : Option Response) (sh : SheetSel) (row col : Nat) : (s.setResponse r).pixel sh row col = s.pixel sh row col := rfl
@[simp] theorem setResponse_subpalEntry (r : Option Response) (p k : BitVec 2) : (s.setResponse r).subpalEntry p k = s.subpalEntry p k := rfl
@[simp] theorem setResponse_chrByte (r : Option Response) (k : Nat) : (s.setResponse r).chrByte k = s.chrByte k := rfl
@[simp] theorem setResponse_rgbWord (r : Option Response) (i : Nat) : (s.setResponse r).rgbWord i = s.rgbWord i := rfl

theorem setResponse_self : s.setResponse s.response = s := rfl

/-! ### setPixel -/

@[simp] theorem setPixel_subpal (sh : SheetSel) (r c : Nat) (v : Pixel) : (s.setPixel sh r c v).subpal = s.subpal := rfl
@[simp] theorem setPixel_chrbuf (sh : SheetSel) (r c : Nat) (v : Pixel) : (s.setPixel sh r c v).chrbuf = s.chrbuf := rfl
@[simp] theorem setPixel_rgbbuf (sh : SheetSel) (r c : Nat) (v : Pixel) : (s.setPixel sh r c v).rgbbuf = s.rgbbuf := rfl
@[simp] theorem setPixel_chrLen (sh : SheetSel) (r c : Nat) (v : Pixel) : (s.setPixel sh r c v).chrLen = s.chrLen := rfl
@[simp] theorem setPixel_result (sh : SheetSel) (r c : Nat) (v : Pixel) : (s.setPixel sh r c v).result = s.result := rfl
@[simp] theorem setPixel_czSize (sh : SheetSel) (r c : Nat) (v : Pixel) : (s.setPixel sh r c v).czSize = s.czSize := rfl
@[simp] theorem setPixel_err (sh : SheetSel) (r c : Nat) (v : Pixel) : (s.setPixel sh r c v).err = s.err := rfl
@[simp] theorem setPixel_errcode (sh : SheetSel) (r c : Nat) (v : Pixel) : (s.setPixel sh r c v).errcode = s.errcode := rfl
@[simp] theorem setPixel_pending (sh : SheetSel) (r c : Nat) (v : Pixel) : (s.setPixel sh r c v).pending = s.pending := rfl
@[simp] theorem setPixel_response (sh : SheetSel) (r c : Nat) (v : Pixel) : (s.setPixel sh r c v).response = s.response := rfl
@[simp] theorem setPixel_resets (sh : SheetSel) (r c : Nat) (v : Pixel) : (s.setPixel sh r c v).resets = s.resets := rfl
@[simp] theorem setPixel_subpalEntry (sh : SheetSel) (r c : Nat) (v : Pixel) (p' k' : BitVec 2) : (s.setPixel sh r c v).subpalEntry p' k' = s.subpalEntry p' k' := rfl
@[simp] theorem setPixel_chrByte (sh : SheetSel) (r c : Nat) (v : Pixel) (j : Nat) : (s.setPixel sh r c v).chrByte j = s.chrByte j := rfl
@[simp] theorem setPixel_rgbWord (sh : SheetSel) (r c : Nat) (v : Pixel) (j : Nat) : (s.setPixel sh r c v).rgbWord j = s.rgbWord j := rfl

/-! ### setSheets -/

@[simp] theorem setSheets_subpal (f : SheetSel → Nat → Nat → Pixel) : (s.setSheets f).subpal = s.subpal := rfl
@[simp] theorem setSheets_chrbuf (f : SheetSel → Nat → Nat → Pixel) : (s.setSheets f).chrbuf = s.chrbuf := rfl
@[simp] theorem setSheets_rgbbuf (f : SheetSel → Nat → Nat → Pixel) : (s.setSheets f).rgbbuf = s.rgbbuf := rfl
@[simp] theorem setSheets_chrLen (f : SheetSel → Nat → Nat → Pixel) : (s.setSheets f).chrLen = s.chrLen := rfl
@[simp] theorem setSheets_result (f : SheetSel → Nat → Nat → Pixel) : (s.setSheets f).result = s.result := rfl
@[simp] theorem setSheets_czSize (f : SheetSel → Nat → Nat → Pixel) : (s.setSheets f).czSize = s.czSize := rfl
@[simp] theorem setSheets_err (f : SheetSel → Nat → Nat → Pixel) : (s.setSheets f).err = s.err := rfl
@[simp] theorem setSheets_errcode (f : SheetSel → Nat → Nat → Pixel) : (s.setSheets f).errcode = s.errcode := rfl
@[simp] theorem setSheets_pending (f : SheetSel → Nat → Nat → Pixel) : (s.setSheets f).pending = s.pending := rfl
@[simp] theorem setSheets_response (f : SheetSel → Nat → Nat → Pixel) : (s.setSheets f).response = s.response := rfl
@[simp] theorem setSheets_resets (f : SheetSel → Nat → Nat → Pixel) : (s.setSheets f).resets = s.resets := rfl
@[simp] theorem setSheets_subpalEntry (f : SheetSel → Nat → Nat → Pixel) (p' k' : BitVec 2) : (s.setSheets f).subpalEntry p' k' = s.subpalEntry p' k' := rfl
@[simp] theorem setSheets_chrByte (f : SheetSel → Nat → Nat → Pixel) (j : Nat) : (s.setSheets f).chrByte j = s.chrByte j := rfl
@[simp] theorem setSheets_rgbWord (f : SheetSel → Nat → Nat → Pixel) (j : Nat) : (s.setSheets f).rgbWord j = s.rgbWord j := rfl

/-! ### setSubpalEntry -/

@[simp] theorem setSubpalEntry_sheet (p k : BitVec 2) (v : MasterIndex) : (s.setSubpalEntry p k v).sheet = s.sheet := rfl
@[simp] theorem setSubpalEntry_chrbuf (p k : BitVec 2) (v : MasterIndex) : (s.setSubpalEntry p k v).chrbuf = s.chrbuf := rfl
@[simp] theorem setSubpalEntry_rgbbuf (p k : BitVec 2) (v : MasterIndex) : (s.setSubpalEntry p k v).rgbbuf = s.rgbbuf := rfl
@[simp] theorem setSubpalEntry_chrLen (p k : BitVec 2) (v : MasterIndex) : (s.setSubpalEntry p k v).chrLen = s.chrLen := rfl
@[simp] theorem setSubpalEntry_result (p k : BitVec 2) (v : MasterIndex) : (s.setSubpalEntry p k v).result = s.result := rfl
@[simp] theorem setSubpalEntry_czSize (p k : BitVec 2) (v : MasterIndex) : (s.setSubpalEntry p k v).czSize = s.czSize := rfl
@[simp] theorem setSubpalEntry_err (p k : BitVec 2) (v : MasterIndex) : (s.setSubpalEntry p k v).err = s.err := rfl
@[simp] theorem setSubpalEntry_errcode (p k : BitVec 2) (v : MasterIndex) : (s.setSubpalEntry p k v).errcode = s.errcode := rfl
@[simp] theorem setSubpalEntry_pending (p k : BitVec 2) (v : MasterIndex) : (s.setSubpalEntry p k v).pending = s.pending := rfl
@[simp] theorem setSubpalEntry_response (p k : BitVec 2) (v : MasterIndex) : (s.setSubpalEntry p k v).response = s.response := rfl
@[simp] theorem setSubpalEntry_resets (p k : BitVec 2) (v : MasterIndex) : (s.setSubpalEntry p k v).resets = s.resets := rfl
@[simp] theorem setSubpalEntry_pixel (p k : BitVec 2) (v : MasterIndex) (sh' : SheetSel) (r' c' : Nat) : (s.setSubpalEntry p k v).pixel sh' r' c' = s.pixel sh' r' c' := rfl
@[simp] theorem setSubpalEntry_chrByte (p k : BitVec 2) (v : MasterIndex) (j : Nat) : (s.setSubpalEntry p k v).chrByte j = s.chrByte j := rfl
@[simp] theorem setSubpalEntry_rgbWord (p k : BitVec 2) (v : MasterIndex) (j : Nat) : (s.setSubpalEntry p k v).rgbWord j = s.rgbWord j := rfl

/-! ### setChrByte -/

@[simp] theorem setChrByte_sheet (k : Nat) (v : Byte) : (s.setChrByte k v).sheet = s.sheet := rfl
@[simp] theorem setChrByte_subpal (k : Nat) (v : Byte) : (s.setChrByte k v).subpal = s.subpal := rfl
@[simp] theorem setChrByte_rgbbuf (k : Nat) (v : Byte) : (s.setChrByte k v).rgbbuf = s.rgbbuf := rfl
@[simp] theorem setChrByte_chrLen (k : Nat) (v : Byte) : (s.setChrByte k v).chrLen = s.chrLen := rfl
@[simp] theorem setChrByte_result (k : Nat) (v : Byte) : (s.setChrByte k v).result = s.result := rfl
@[simp] theorem setChrByte_czSize (k : Nat) (v : Byte) : (s.setChrByte k v).czSize = s.czSize := rfl
@[simp] theorem setChrByte_err (k : Nat) (v : Byte) : (s.setChrByte k v).err = s.err := rfl
@[simp] theorem setChrByte_errcode (k : Nat) (v : Byte) : (s.setChrByte k v).errcode = s.errcode := rfl
@[simp] theorem setChrByte_pending (k : Nat) (v : Byte) : (s.setChrByte k v).pending = s.pending := rfl
@[simp] theorem setChrByte_response (k : Nat) (v : Byte) : (s.setChrByte k v).response = s.response := rfl
@[simp] theorem setChrByte_resets (k : Nat) (v : Byte) : (s.setChrByte k v).resets = s.resets := rfl
@[simp] theorem setChrByte_pixel (k : Nat) (v : Byte) (sh' : SheetSel) (r' c' : Nat) : (s.setChrByte k v).pixel sh' r' c' = s.pixel sh' r' c' := rfl
@[simp] theorem setChrByte_subpalEntry (k : Nat) (v : Byte) (p' k' : BitVec 2) : (s.setChrByte k v).subpalEntry p' k' = s.subpalEntry p' k' := rfl
@[simp] theorem setChrByte_rgbWord (k : Nat) (v : Byte) (j : Nat) : (s.setChrByte k v).rgbWord j = s.rgbWord j := rfl

/-! ### setAllChr -/

@[simp] theorem setAllChr_sheet (f : Nat → Byte) : (s.setAllChr f).sheet = s.sheet := rfl
@[simp] theorem setAllChr_subpal (f : Nat → Byte) : (s.setAllChr f).subpal = s.subpal := rfl
@[simp] theorem setAllChr_rgbbuf (f : Nat → Byte) : (s.setAllChr f).rgbbuf = s.rgbbuf := rfl
@[simp] theorem setAllChr_chrLen (f : Nat → Byte) : (s.setAllChr f).chrLen = s.chrLen := rfl
@[simp] theorem setAllChr_result (f : Nat → Byte) : (s.setAllChr f).result = s.result := rfl
@[simp] theorem setAllChr_czSize (f : Nat → Byte) : (s.setAllChr f).czSize = s.czSize := rfl
@[simp] theorem setAllChr_err (f : Nat → Byte) : (s.setAllChr f).err = s.err := rfl
@[simp] theorem setAllChr_errcode (f : Nat → Byte) : (s.setAllChr f).errcode = s.errcode := rfl
@[simp] theorem setAllChr_pending (f : Nat → Byte) : (s.setAllChr f).pending = s.pending := rfl
@[simp] theorem setAllChr_response (f : Nat → Byte) : (s.setAllChr f).response = s.response := rfl
@[simp] theorem setAllChr_resets (f : Nat → Byte) : (s.setAllChr f).resets = s.resets := rfl
@[simp] theorem setAllChr_pixel (f : Nat → Byte) (sh' : SheetSel) (r' c' : Nat) : (s.setAllChr f).pixel sh' r' c' = s.pixel sh' r' c' := rfl
@[simp] theorem setAllChr_subpalEntry (f : Nat → Byte) (p' k' : BitVec 2) : (s.setAllChr f).subpalEntry p' k' = s.subpalEntry p' k' := rfl
@[simp] theorem setAllChr_rgbWord (f : Nat → Byte) (j : Nat) : (s.setAllChr f).rgbWord j = s.rgbWord j := rfl

/-! ### setRgbWord -/

@[simp] theorem setRgbWord_sheet (i : Nat) (v : Word) : (s.setRgbWord i v).sheet = s.sheet := rfl
@[simp] theorem setRgbWord_subpal (i : Nat) (v : Word) : (s.setRgbWord i v).subpal = s.subpal := rfl
@[simp] theorem setRgbWord_chrbuf (i : Nat) (v : Word) : (s.setRgbWord i v).chrbuf = s.chrbuf := rfl
@[simp] theorem setRgbWord_chrLen (i : Nat) (v : Word) : (s.setRgbWord i v).chrLen = s.chrLen := rfl
@[simp] theorem setRgbWord_result (i : Nat) (v : Word) : (s.setRgbWord i v).result = s.result := rfl
@[simp] theorem setRgbWord_czSize (i : Nat) (v : Word) : (s.setRgbWord i v).czSize = s.czSize := rfl
@[simp] theorem setRgbWord_err (i : Nat) (v : Word) : (s.setRgbWord i v).err = s.err := rfl
@[simp] theorem setRgbWord_errcode (i : Nat) (v : Word) : (s.setRgbWord i v).errcode = s.errcode := rfl
@[simp] theorem setRgbWord_pending (i : Nat) (v : Word) : (s.setRgbWord i v).pending = s.pending := rfl
@[simp] theorem setRgbWord_response (i : Nat) (v : Word) : (s.setRgbWord i v).response = s.response := rfl
@[simp] theorem setRgbWord_resets (i : Nat) (v : Word) : (s.setRgbWord i v).resets = s.resets := rfl
@[simp] theorem setRgbWord_pixel (i : Nat) (v : Word) (sh' : SheetSel) (r' c' : Nat) : (s.setRgbWord i v).pixel sh' r' c' = s.pixel sh' r' c' := rfl
@[simp] theorem setRgbWord_subpalEntry (i : Nat) (v : Word) (p' k' : BitVec 2) : (s.setRgbWord i v).subpalEntry p' k' = s.subpalEntry p' k' := rfl
@[simp] theorem setRgbWord_chrByte (i : Nat) (v : Word) (j : Nat) : (s.setRgbWord i v).chrByte j = s.chrByte j := rfl

/-! ### fillRgb -/

@[simp] theorem fillRgb_sheet (n : Nat) (f : Nat → Word) : (s.fillRgb n f).sheet = s.sheet := rfl
@[simp] theorem fillRgb_subpal (n : Nat) (f : Nat → Word) : (s.fillRgb n f).subpal = s.subpal := rfl
@[simp] theorem fillRgb_chrbuf (n : Nat) (f : Nat → Word) : (s.fillRgb n f).chrbuf = s.chrbuf := rfl
@[simp] theorem fillRgb_chrLen (n : Nat) (f : Nat → Word) : (s.fillRgb n f).chrLen = s.chrLen := rfl
@[simp] theorem fillRgb_result (n : Nat) (f : Nat → Word) : (s.fillRgb n f).result = s.result := rfl
@[simp] theorem fillRgb_czSize (n : Nat) (f : Nat → Word) : (s.fillRgb n f).czSize = s.czSize := rfl
@[simp] theorem fillRgb_err (n : Nat) (f : Nat → Word) : (s.fillRgb n f).err = s.err := rfl
@[simp] theorem fillRgb_errcode (n : Nat) (f : Nat → Word) : (s.fillRgb n f).errcode = s.errcode := rfl
@[simp] theorem fillRgb_pending (n : Nat) (f : Nat → Word) : (s.fillRgb n f).pending = s.pending := rfl
@[simp] theorem fillRgb_response (n : Nat) (f : Nat → Word) : (s.fillRgb n f).response = s.response := rfl
@[simp] theorem fillRgb_resets (n : Nat) (f : Nat → Word) : (s.fillRgb n f).resets = s.resets := rfl
@[simp] theorem fillRgb_pixel (n : Nat) (f : Nat → Word) (sh' : SheetSel) (r' c' : Nat) : (s.fillRgb n f).pixel sh' r' c' = s.pixel sh' r' c' := rfl
@[simp] theorem fillRgb_subpalEntry (n : Nat) (f : Nat → Word) (p' k' : BitVec 2) : (s.fillRgb n f).subpalEntry p' k' = s.subpalEntry p' k' := rfl
@[simp] theorem fillRgb_chrByte (n : Nat) (f : Nat → Word) (j : Nat) : (s.fillRgb n f).chrByte j = s.chrByte j := rfl

end Sys2Proof.Machine.State
end

