-- ==== Sys2Proof/Laws/Store.lean ====
section
/-! SUPPORT. What a store reads as after each operation, and that every operation keeps the canonical form, in which
equal memories are equal lists. -/

namespace Sys2Proof.Machine.Store

variable {w : Nat} {d : Option (BitVec w)}

theorem get?_append (m m' : Store w) (k : Nat) :
    get? (m ++ m') k = (get? m k).or (get? m' k) := by
  induction m with
  | nil => simp [get?]
  | cons e m ih =>
    obtain ⟨a, v⟩ := e
    by_cases h : a = k <;> simp [get?, h, ih]

theorem get?_filter (p : Nat → Bool) (m : Store w) (k : Nat) :
    get? (m.filter fun e => p e.1) k = if p k then get? m k else none := by
  induction m with
  | nil => simp [get?]
  | cons e m ih =>
    obtain ⟨a, v⟩ := e
    by_cases hk : a = k
    · subst hk
      cases hp : p a <;> simp_all [get?]
    · cases hp : p a <;> simp [get?, hp, hk, ih]

theorem get?_cell (k j : Nat) (v : BitVec w) :
    get? (cell d k v) j = if k = j ∧ d ≠ some v then some v else none := by
  by_cases hd : d = some v <;> by_cases hk : k = j <;> simp [cell, get?, hd, hk]

/-- A write is seen at its own key and nowhere else; `d` is what an unlisted cell reads as. -/
theorem get?_put (m : Store w) (k j : Nat) (v : BitVec w) :
    get? (put d m k v) j = if j = k then (if d = some v then none else some v) else get? m j := by
  have hlo := get?_filter (fun a => decide (a < k)) m j
  have hhi := get?_filter (fun a => decide (k < a)) m j
  rw [put, get?_append, get?_append, get?_cell, hlo, hhi]
  by_cases hjk : j = k
  · subst hjk
    by_cases hd : d = some v <;> simp [hd]
  · by_cases hlt : j < k
    · have h1 : ¬ k < j := by omega
      have h2 : ¬ k = j := by omega
      simp [hjk, hlt, h1, h2]
    · have h1 : k < j := by omega
      have h2 : ¬ k = j := by omega
      simp [hjk, hlt, h1, h2]

theorem get?_flatMap_cell (f : Nat → BitVec w) (n a j : Nat) :
    get? ((List.range' a n).flatMap fun k => cell d k (f k)) j =
      if a ≤ j ∧ j < a + n ∧ d ≠ some (f j) then some (f j) else none := by
  induction n generalizing a with
  | zero => simp [get?]; omega
  | succ n ih =>
    rw [List.range'_succ, List.flatMap_cons, get?_append, get?_cell, ih]
    by_cases haj : a = j
    · subst haj
      by_cases hd : d = some (f a) <;> simp [hd]
    · by_cases h : a ≤ j ∧ j < a + (n + 1)
      · have h' : a + 1 ≤ j ∧ j < a + 1 + n := by omega
        simp [haj, h, h']
      · have h' : ¬ (a + 1 ≤ j ∧ j < a + 1 + n) := by omega
        have e1 : ¬ (a ≤ j ∧ j < a + (n + 1) ∧ d ≠ some (f j)) := fun x => h ⟨x.1, x.2.1⟩
        have e2 : ¬ (a + 1 ≤ j ∧ j < a + 1 + n ∧ d ≠ some (f j)) := fun x => h' ⟨x.1, x.2.1⟩
        rw [if_neg e1, if_neg e2]
        simp [haj]

/-- The first `n` cells hold `f` and no other cell is listed. -/
theorem get?_tabulate (f : Nat → BitVec w) (n j : Nat) :
    get? (tabulate d n f) j = if j < n ∧ d ≠ some (f j) then some (f j) else none := by
  simpa [tabulate] using get?_flatMap_cell (d := d) f n 0 j

/-- The first `n` cells hold `f` and every other cell is as before. -/
theorem get?_fill (m : Store w) (f : Nat → BitVec w) (n j : Nat) :
    get? (fill d m n f) j = if j < n then (if d = some (f j) then none else some (f j)) else get? m j := by
  have h := get?_filter (fun a => decide (n ≤ a)) m j
  rw [fill, get?_append, get?_tabulate, h]
  by_cases hj : j < n
  · have : ¬ n ≤ j := by omega
    by_cases hd : d = some (f j) <;> simp [hj, hd]
  · have : n ≤ j := by omega
    simp [hj, this]

/-- A memory written with nothing but what unlisted cells read as lists nothing. -/
theorem tabulate_default {v : BitVec w} {n : Nat} {f : Nat → BitVec w} (h : ∀ k < n, f k = v) :
    tabulate (some v) n f = [] := by
  rw [tabulate, List.flatMap_eq_nil_iff]
  intro k hk
  rw [h k (by simpa using (List.mem_range'_1.mp hk).2)]
  simp [cell]

/-- Only the values on the cells that are written matter. -/
theorem tabulate_congr {n : Nat} {f g : Nat → BitVec w} (h : ∀ k < n, f k = g k) :
    tabulate d n f = tabulate d n g := by
  unfold tabulate
  apply List.flatMap_congr
  intro k hk
  rw [h k (by simpa using (List.mem_range'_1.mp hk).2)]

/-! ### Canonical form -/

theorem wf_iff {size : Nat} {m : Store w} :
    wf d size m = true ↔ (m.Pairwise fun a b => a.1 < b.1) ∧ ∀ e ∈ m, e.1 < size ∧ d ≠ some e.2 := by
  simp [wf]

theorem wf_nil {size : Nat} : wf d size ([] : Store w) = true := by simp [wf]

theorem mem_cell {k : Nat} {v : BitVec w} {e : Nat × BitVec w} (h : e ∈ cell d k v) :
    e = (k, v) ∧ d ≠ some v := by
  by_cases hd : d = some v <;> simp_all [cell]

theorem cell_pairwise (k : Nat) (v : BitVec w) : (cell d k v).Pairwise fun a b => a.1 < b.1 := by
  by_cases hd : d = some v <;> simp [cell, hd]

/-- A write to a cell of the memory keeps the canonical form. -/
theorem wf_put {size : Nat} {m : Store w} (hm : wf d size m = true) {k : Nat} (hk : k < size) (v : BitVec w) :
    wf d size (put d m k v) = true := by
  rw [wf_iff] at hm ⊢
  obtain ⟨hp, ha⟩ := hm
  refine ⟨?_, ?_⟩
  · rw [put, List.pairwise_append, List.pairwise_append]
    refine ⟨hp.filter _, ⟨cell_pairwise k v, hp.filter _, ?_⟩, ?_⟩
    · intro a hacell b hb
      obtain ⟨rfl, -⟩ := mem_cell hacell
      simpa using (List.mem_filter.mp hb).2
    · intro a hlow b hb
      have hak : a.1 < k := by simpa using (List.mem_filter.mp hlow).2
      rcases List.mem_append.mp hb with hb | hb
      · obtain ⟨rfl, -⟩ := mem_cell hb
        exact hak
      · have : k < b.1 := by simpa using (List.mem_filter.mp hb).2
        omega
  · intro e he
    rw [put, List.mem_append, List.mem_append] at he
    rcases he with he | he | he
    · exact ha e (List.mem_filter.mp he).1
    · obtain ⟨rfl, hd⟩ := mem_cell he
      exact ⟨hk, hd⟩
    · exact ha e (List.mem_filter.mp he).1

theorem flatMap_cell_pairwise (f : Nat → BitVec w) (n a : Nat) :
    ((List.range' a n).flatMap fun k => cell d k (f k)).Pairwise fun x y => x.1 < y.1 := by
  induction n generalizing a with
  | zero => simp
  | succ n ih =>
    rw [List.range'_succ, List.flatMap_cons, List.pairwise_append]
    refine ⟨cell_pairwise _ _, ih _, ?_⟩
    intro x hx y hy
    obtain ⟨rfl, -⟩ := mem_cell hx
    obtain ⟨j, hj, hy⟩ := List.mem_flatMap.mp hy
    obtain ⟨rfl, -⟩ := mem_cell hy
    have := (List.mem_range'_1.mp hj).1
    show a < j
    omega

theorem mem_tabulate {n : Nat} {f : Nat → BitVec w} {e : Nat × BitVec w} (h : e ∈ tabulate d n f) :
    e.1 < n ∧ d ≠ some e.2 := by
  obtain ⟨j, hj, he⟩ := List.mem_flatMap.mp h
  obtain ⟨rfl, hd⟩ := mem_cell he
  have := (List.mem_range'_1.mp hj).2
  exact ⟨by simpa using this, hd⟩

theorem wf_tabulate {size n : Nat} (hn : n ≤ size) (f : Nat → BitVec w) :
    wf d size (tabulate d n f) = true := by
  rw [wf_iff]
  exact ⟨flatMap_cell_pairwise f n 0, fun e he => ⟨by have := (mem_tabulate he).1; omega, (mem_tabulate he).2⟩⟩

theorem wf_fill {size n : Nat} {m : Store w} (hm : wf d size m = true) (hn : n ≤ size) (f : Nat → BitVec w) :
    wf d size (fill d m n f) = true := by
  rw [wf_iff] at hm ⊢
  obtain ⟨hp, ha⟩ := hm
  refine ⟨?_, ?_⟩
  · rw [fill, List.pairwise_append]
    refine ⟨flatMap_cell_pairwise f n 0, hp.filter _, ?_⟩
    intro a hta b hb
    have h1 := (mem_tabulate hta).1
    have h2 : n ≤ b.1 := by simpa using (List.mem_filter.mp hb).2
    omega
  · intro e he
    rcases List.mem_append.mp he with he | he
    · exact ⟨by have := (mem_tabulate he).1; omega, (mem_tabulate he).2⟩
    · exact ha e (List.mem_filter.mp he).1

theorem get?_mem {m : Store w} {k : Nat} {v : BitVec w} (h : get? m k = some v) : (k, v) ∈ m := by
  induction m with
  | nil => simp [get?] at h
  | cons e m ih =>
    obtain ⟨a, x⟩ := e
    by_cases hak : a = k
    · simp_all [get?]
    · exact List.mem_cons_of_mem _ (ih (by simpa [get?, hak] using h))

theorem get?_of_mem {m : Store w} (hm : m.Pairwise fun a b => a.1 < b.1) {k : Nat} {v : BitVec w}
    (h : (k, v) ∈ m) : get? m k = some v := by
  induction m with
  | nil => simp at h
  | cons e m ih =>
    obtain ⟨a, x⟩ := e
    rw [List.pairwise_cons] at hm
    rcases List.mem_cons.mp h with h | h
    · cases h
      simp [get?]
    · have : a < k := hm.1 _ h
      have hne : ¬ a = k := by omega
      simpa [get?, hne] using ih hm.2 h

/-- Two canonical memories that read alike are the same list. -/
theorem ext_get? {size : Nat} {m m' : Store w} (hm : wf d size m = true) (hm' : wf d size m' = true)
    (h : ∀ k, get? m k = get? m' k) : m = m' := by
  have hp := (wf_iff.mp hm).1
  have hp' := (wf_iff.mp hm').1
  have hsub : ∀ e, e ∈ m ↔ e ∈ m' := fun ⟨k, v⟩ =>
    ⟨fun he => get?_mem (h k ▸ get?_of_mem hp he), fun he => get?_mem ((h k).symm ▸ get?_of_mem hp' he)⟩
  have hirr : ∀ {l : Store w}, (l.Pairwise fun a b => a.1 < b.1) → l.Nodup := fun hl =>
    hl.imp fun hab heq => by simp [heq] at hab
  exact ((List.perm_ext_iff_of_nodup (hirr hp) (hirr hp')).mpr hsub).eq_of_pairwise
    (fun a b _ _ hab hba => by omega) hp hp'

end Sys2Proof.Machine.Store
end

