-- ==== Sys2Proof/Laws/Ops.lean ====
section
/-! SUPPORT. What each shared operation does, once: how the memory views read after it, and that it keeps the canonical
form of the memories. -/

namespace Sys2Proof.Machine

namespace State

variable (s : State)

/-! ### SHEET -/

theorem pixel_setPixel {sh sh' : SheetSel} {r c r' c' : Nat} (hr : r < 128) (hc : c < 128) (hr' : r' < 128)
    (hc' : c' < 128) (v : Pixel) :
    (s.setPixel sh r c v).pixel sh' r' c' = if sh' = sh ∧ r' = r ∧ c' = c then v else s.pixel sh' r' c' := by
  rw [pixel, setPixel, setSheet_sheet, Store.get?_put, pixel]
  by_cases h : sh' = sh ∧ r' = r ∧ c' = c
  · rw [if_pos ((cellKey_inj hr' hc' hr hc).mpr h), if_pos h]
    by_cases hv : 0#2 = v <;> simp [hv]
  · rw [if_neg (fun e => h ((cellKey_inj hr' hc' hr hc).mp e)), if_neg h]

theorem pixel_setSheets (f : SheetSel → Nat → Nat → Pixel) {sh : SheetSel} {r c : Nat} (hr : r < 128)
    (hc : c < 128) : (s.setSheets f).pixel sh r c = f sh r c := by
  rw [pixel, setSheets, setSheet_sheet, Store.get?_tabulate, cellSheet_cellKey hr hc, cellRow_cellKey hr hc,
    cellCol_cellKey hc]
  have := cellKey_lt (sh := sh) hr hc
  by_cases hv : 0#2 = f sh r c <;> simp [this, hv]

theorem pixel_setSheet_nil (sh : SheetSel) (r c : Nat) : (s.setSheet []).pixel sh r c = 0 := rfl

/-! ### SUBPAL -/

theorem subpalEntry_setSubpalEntry (p k p' k' : BitVec 2) (v : MasterIndex) :
    (s.setSubpalEntry p k v).subpalEntry p' k' = if p' = p ∧ k' = k then v else s.subpalEntry p' k' := by
  have hfin : ∀ a b : BitVec 2, a.toFin.val = b.toFin.val ↔ a = b := fun a b => by
    simp [BitVec.toNat_inj]
  simp only [subpalEntry, setSubpalEntry, setSubpal_subpal, Vector.get_eq_getElem]
  rw [Vector.getElem_set]
  by_cases hp : p' = p
  · subst hp
    rw [if_pos rfl, Vector.getElem_set]
    by_cases hk : k' = k
    · subst hk; simp
    · rw [if_neg (fun e => hk ((hfin _ _).mp e.symm)), if_neg (by simp [hk])]
  · rw [if_neg (fun e => hp ((hfin _ _).mp e.symm)), if_neg (by simp [hp])]

/-! ### CHRBUF -/

theorem chrByte_setChrByte (k j : Nat) (v : Byte) :
    (s.setChrByte k v).chrByte j = if j = k then v else s.chrByte j := by
  rw [chrByte, setChrByte, setChrbuf_chrbuf, Store.get?_put, chrByte, setChrbuf_resets]
  by_cases h : j = k <;> simp [h]

theorem chrByte_setAllChr (f : Nat → Byte) {k : Nat} (hk : k < 8192) : (s.setAllChr f).chrByte k = f k := by
  simp [chrByte, setAllChr, Store.get?_tabulate, hk]

/-! ### RGBBUF -/

theorem rgbWord_setRgbWord (i j : Nat) (v : Word) :
    (s.setRgbWord i v).rgbWord j = if j = i then v else s.rgbWord j := by
  rw [rgbWord, setRgbWord, setRgbbuf_rgbbuf, Store.get?_put, rgbWord, setRgbbuf_resets]
  by_cases h : j = i <;> simp [h]

theorem rgbWord_fillRgb (n : Nat) (f : Nat → Word) (i : Nat) :
    (s.fillRgb n f).rgbWord i = if i < n then f i else s.rgbWord i := by
  rw [rgbWord, fillRgb, setRgbbuf_rgbbuf, Store.get?_fill, rgbWord, setRgbbuf_resets]
  by_cases h : i < n <;> simp [h]

end State

/-! ### Canonical form -/

theorem Memory.wf_iff {s : State} :
    Memory.wf s = true ↔
      Store.wf (some 0#2) 32768 s.sheet = true ∧ Store.wf none 8192 s.chrbuf = true ∧
        Store.wf none 16384 s.rgbbuf = true := by
  simp [Memory.wf, and_assoc]

/-- The canonical form is a property of the three memories alone. -/
theorem Memory.wf_congr {s t : State} (h1 : t.sheet = s.sheet) (h2 : t.chrbuf = s.chrbuf)
    (h3 : t.rgbbuf = s.rgbbuf) : Memory.wf t = Memory.wf s := by
  simp only [Memory.wf, h1, h2, h3]

theorem Memory.wf_setPixel {s : State} (h : Memory.wf s = true) {sh : SheetSel} {r c : Nat} (hr : r < 128)
    (hc : c < 128) (v : Pixel) : Memory.wf (s.setPixel sh r c v) = true := by
  rw [Memory.wf_iff] at h ⊢
  exact ⟨Store.wf_put h.1 (cellKey_lt hr hc) v, h.2⟩

theorem Memory.wf_setSheet_nil {s : State} (h : Memory.wf s = true) : Memory.wf (s.setSheet []) = true := by
  rw [Memory.wf_iff] at h ⊢
  exact ⟨Store.wf_nil, h.2⟩

theorem Memory.wf_setSheets {s : State} (h : Memory.wf s = true) (f : SheetSel → Nat → Nat → Pixel) :
    Memory.wf (s.setSheets f) = true := by
  rw [Memory.wf_iff] at h ⊢
  exact ⟨Store.wf_tabulate (by simp) _, h.2⟩

theorem Memory.wf_setChrByte {s : State} (h : Memory.wf s = true) {k : Nat} (hk : k < 8192) (v : Byte) :
    Memory.wf (s.setChrByte k v) = true := by
  rw [Memory.wf_iff] at h ⊢
  exact ⟨h.1, Store.wf_put h.2.1 hk v, h.2.2⟩

theorem Memory.wf_setAllChr {s : State} (h : Memory.wf s = true) (f : Nat → Byte) :
    Memory.wf (s.setAllChr f) = true := by
  rw [Memory.wf_iff] at h ⊢
  exact ⟨h.1, Store.wf_tabulate (by simp) f, h.2.2⟩

theorem Memory.wf_setRgbWord {s : State} (h : Memory.wf s = true) {i : Nat} (hi : i < 16384) (v : Word) :
    Memory.wf (s.setRgbWord i v) = true := by
  rw [Memory.wf_iff] at h ⊢
  exact ⟨h.1, h.2.1, Store.wf_put h.2.2 hi v⟩

theorem Memory.wf_fillRgb {s : State} (h : Memory.wf s = true) {n : Nat} (hn : n ≤ 16384) (f : Nat → Word) :
    Memory.wf (s.fillRgb n f) = true := by
  rw [Memory.wf_iff] at h ⊢
  exact ⟨h.1, h.2.1, Store.wf_fill h.2.2 hn f⟩

/-! ### Errors -/

/-- Everything ending a command in an error does: STATUS, and nothing else (R87). -/
theorem raiseCmdError_eq (e : CmdError) (s : State) :
    raiseCmdError e s = s.setStatus true (if s.err then s.errcode else errorCode e) := rfl

/-- Everything a write to STATUS does (R24). -/
theorem clearStatus_eq (v : Word) (s : State) :
    clearStatus v s = if v.getLsbD 0 then s.setStatus false 0 else s := rfl

theorem statusLegal_raise {s : State} (h : statusLegal s.err s.errcode = true) (e : CmdError) :
    statusLegal (raiseCmdError e s).err (raiseCmdError e s).errcode = true := by
  cases hs : s.err
  · cases e <;> simp [raiseCmdError, hs, statusLegal, errorCode]
  · simpa [raiseCmdError, hs, statusLegal] using h

end Sys2Proof.Machine
end

