-- ==== Sys2Proof/Laws/Bus.lean ====
section
/-! SUPPORT. Inversion lemmas: what a command, an access and a step can do. -/

namespace Sys2Proof.Machine

theorem exec_decode (s : State) : exec .decode s = .next (s.setSheets (decodedPixel s)) := rfl

theorem exec_encode (s : State) : exec .encode s = .next ((s.setAllChr (encodedByte s)).setChrLen 8192) := rfl

theorem exec_zerosh (s : State) : exec .zerosh s = .next (s.setSheet []) := rfl

theorem exec_setpix (sh : SheetSel) (row col : BitVec 7) (k : Pixel) (s : State) :
    exec (.setpix sh row col k) s = .next (s.setPixel sh row.toNat col.toNat k) := rfl

theorem exec_getpix (sh : SheetSel) (row col : BitVec 7) (s : State) :
    exec (.getpix sh row col) s = .next (s.setResult ((s.pixel sh row.toNat col.toNat).setWidth 32)) := rfl

theorem exec_setpal (p k : BitVec 2) (mi : MasterIndex) (s : State) :
    exec (.setpal p k mi) s = .next (s.setSubpalEntry p k mi) := rfl

theorem exec_getpal (p : BitVec 2) (s : State) :
    exec (.getpal p) s = .next (s.setResult (packSubpal (s.subpalEntry p))) := rfl

theorem exec_getmst (mi : MasterIndex) (s : State) :
    exec (.getmst mi) s = .next (s.setResult (rgbWordOf (Config.master mi))) := rfl

theorem exec_lookup (p k : BitVec 2) (s : State) :
    exec (.lookup p k) s = .next (s.setResult (rgbWordOf (s.colorOf p k))) := rfl

theorem exec_colorize_legal {s : State} {row col : BitVec 7} (h : regionLegal s.czSize row col = true)
    (sh : SheetSel) (p : BitVec 2) :
    exec (.colorize sh p row col) s = .next (s.fillRgb (czHeight s.czSize * czWidth s.czSize) fun n =>
      rgbWordOf (s.colorOf p (s.pixel sh (row.toNat + n / czWidth s.czSize) (col.toNat + n % czWidth s.czSize)))) := by
  show execColorize sh p row col s = _
  rw [execColorize, if_pos h]

theorem exec_colorize_illegal {s : State} {row col : BitVec 7} (h : regionLegal s.czSize row col = false)
    (sh : SheetSel) (p : BitVec 2) :
    exec (.colorize sh p row col) s = .next (raiseCmdError .badRegion s) := by
  show execColorize sh p row col s = _
  rw [execColorize, if_neg (by simp [h])]

theorem runCommand_ok {w : Word} {i : Instr} (h : decode w = .ok i) (s : State) : runCommand w s = exec i s := by
  simp [runCommand, h]

theorem runCommand_error {w : Word} {e : CmdError} (h : decode w = .error e) (s : State) :
    runCommand w s = .next (raiseCmdError e s) := by
  simp [runCommand, h]

/-- A command either runs as some instruction or records its error. -/
theorem runCommand_cases (w : Word) (s : State) :
    (∃ i, decode w = .ok i ∧ runCommand w s = exec i s) ∨
      ∃ e, decode w = .error e ∧ runCommand w s = .next (raiseCmdError e s) := by
  cases h : decode w with
  | ok i => exact .inl ⟨i, rfl, runCommand_ok h s⟩
  | error e => exact .inr ⟨e, rfl, runCommand_error h s⟩

theorem step_idle {s : State} (h : s.pending = []) : step s = .next s := by simp [step, h]

theorem step_event {s : State} {e : HostEvent} {rest : List HostEvent} (h : s.pending = e :: rest) :
    step s = perform e (s.setPending rest) := by simp [step, h]

theorem target_cmd : target 0x000 4 = .cmd := by decide

theorem target_status : target 0x004 4 = .status := by decide

theorem target_chrLen : target 0x008 4 = .chrLen := by decide

theorem target_result : target 0x00C 4 = .result := by decide

theorem target_czSize : target 0x010 4 = .czSize := by decide

/-- The ways an access can reach a CHRBUF word (R36, R40). -/
theorem target_chrWord {off : Offset} {n j : Nat} (h : target off n = .chrWord j) :
    n = 4 ∧ j % 4 = 0 ∧ j + 3 < 8192 ∧ off.toNat = 0x02000 + j := by
  unfold target at h
  simp only at h
  repeat' split at h
  all_goals first
    | (injection h with h; omega)
    | cases h

/-- The ways an access can reach an RGBBUF word (R39, R40). -/
theorem target_rgbWord {off : Offset} {n i : Nat} (h : target off n = .rgbWord i) :
    n = 4 ∧ i < 16384 ∧ off.toNat = 0x10000 + 4 * i := by
  have := off.isLt
  unfold target at h
  simp only at h
  repeat' split at h
  all_goals first
    | (injection h with h; omega)
    | cases h

/-- An access reaches only one of R21, R36 and R39's words, and only as an aligned 4-byte access (R40). -/
theorem target_supported {off : Offset} {n : Nat} (h : target off n ≠ .unsupported) : n = 4 ∧ off.toNat % 4 = 0 := by
  unfold target at h
  simp only at h
  split at h
  · exact absurd rfl h
  · omega

/-- Only the CMD offset reaches the engine (R21, R22). -/
theorem target_eq_cmd {off : Offset} {n : Nat} (h : target off n = .cmd) : off = 0x000 ∧ n = 4 := by
  unfold target at h
  simp only at h
  repeat' split at h
  all_goals first
    | cases h; done
    | exact ⟨by apply BitVec.eq_of_toNat_eq; simpa using ‹_›, by omega⟩

/-- Only the STATUS offset reaches STATUS (R21, R24). -/
theorem target_eq_status {off : Offset} {n : Nat} (h : target off n = .status) : off = 0x004 ∧ n = 4 := by
  unfold target at h
  simp only at h
  repeat' split at h
  all_goals first
    | cases h; done
    | exact ⟨by apply BitVec.eq_of_toNat_eq; simpa using ‹_›, by omega⟩

/-- Everything a step that goes on can be: idle, a reset, a read, or a write. -/
theorem step_cases {s t : State} (h : step s = .next t) :
    (s.pending = [] ∧ t = s) ∨ (∃ rest, s.pending = .reset :: rest ∧ t = resetState (s.setPending rest)) ∨
      (∃ off n rest, s.pending = .memRead off n :: rest ∧ t = answered s rest (hostRead (target off n) s)) ∨
      ∃ off n v rest, s.pending = .memWrite off n v :: rest ∧
        hostWrite (target off n) v (s.setPending rest) = .next t := by
  cases hp : s.pending with
  | nil =>
    rw [step_idle hp] at h
    injection h with h
    exact .inl ⟨rfl, h.symm⟩
  | cons e rest =>
    rw [step_event hp] at h
    cases e with
    | memRead off n =>
      injection h with h
      subst h
      refine .inr (.inr (.inl ⟨off, n, rest, rfl, ?_⟩))
      cases target off n <;> rfl
    | memWrite off n v => exact .inr (.inr (.inr ⟨_, _, _, _, rfl, h⟩))
    | reset =>
      injection h with h
      exact .inr (.inl ⟨rest, rfl, h.symm⟩)

/-- A run goes on from the state its first step gives. -/
theorem core_run_succ (k : Nat) {s t : State} (h : step s = .next t) : core.run (k + 1) s = core.run k t := by
  have h' : core.step s = .next t := h
  simp only [Host.Core.run, h']

/-- The four bytes of a word put together from four bytes, the last the lowest (R36). -/
theorem extract_wordOfBytes (b0 b1 b2 b3 : Byte) :
    (b3 ++ b2 ++ b1 ++ b0 : Word).extractLsb' 0 8 = b0 ∧ (b3 ++ b2 ++ b1 ++ b0 : Word).extractLsb' 8 8 = b1 ∧
      (b3 ++ b2 ++ b1 ++ b0 : Word).extractLsb' 16 8 = b2 ∧ (b3 ++ b2 ++ b1 ++ b0 : Word).extractLsb' 24 8 = b3 := by
  refine ⟨?_, ?_, ?_, ?_⟩ <;>
  · apply BitVec.eq_of_getLsbD_eq
    intro i hi
    simp only [BitVec.getLsbD_extractLsb', hi, decide_true, Bool.true_and, BitVec.getLsbD_append]
    interval_cases i <;> simp

/-- How CHRBUF reads after a word write: the four bytes of the word at `j` to `j+3`, the rest as before (R37). -/
theorem chrByte_storeChrWord (j : Nat) (v : Word) (s : State) (k : Nat) :
    (storeChrWord j v s).chrByte k =
      if k = j + 3 then v.extractLsb' 24 8 else if k = j + 2 then v.extractLsb' 16 8
      else if k = j + 1 then v.extractLsb' 8 8 else if k = j then v.extractLsb' 0 8 else s.chrByte k := by
  simp only [storeChrWord, State.chrByte_setChrByte]

/-- A word write changes CHRBUF and nothing else (R37). -/
theorem storeChrWord_frame (j : Nat) (v : Word) (s : State) :
    storeChrWord j v s = s.setChrbuf (storeChrWord j v s).chrbuf := rfl

/-- A word write inside CHRBUF keeps the canonical form. -/
theorem Memory.wf_storeChrWord {s : State} (h : Memory.wf s = true) {j : Nat} (hj : j + 3 < 8192) (v : Word) :
    Memory.wf (storeChrWord j v s) = true :=
  Memory.wf_setChrByte (Memory.wf_setChrByte (Memory.wf_setChrByte (Memory.wf_setChrByte h (by omega) _) (by omega) _)
    (by omega) _) hj _

end Sys2Proof.Machine
end

