-- ==== Sys2Proof/Laws/Codec.lean ====
section
/-! SUPPORT. The codec's shared operations, pixel by pixel and bit by bit (R65, R72). -/

namespace Sys2Proof.Machine

theorem presentByte_of_lt {s : State} {k : Nat} (h : k < min s.chrLen.toNat 8192) : presentByte s k = s.chrByte k := by
  simp only [presentByte, Config.chrBytes]; exact if_pos h

theorem presentByte_of_ge {s : State} {k : Nat} (h : min s.chrLen.toNat 8192 ≤ k) : presentByte s k = 0 := by
  simp only [presentByte, Config.chrBytes]; exact if_neg (by omega)

/-- Bit 0 of a decoded pixel is its plane-0 bit (R63, R72). -/
theorem decodedPixel_bit0 (s : State) (sh : SheetSel) (r c : Nat) :
    (decodedPixel s sh r c).getLsbD 0 = (presentByte s (plane0Byte sh r c)).getLsbD (bitPos c) := by
  rw [decodedPixel, BitVec.getLsbD_append]
  cases (presentByte s (plane0Byte sh r c)).getLsbD (bitPos c) <;> simp

/-- Bit 1 of a decoded pixel is its plane-1 bit (R63, R72). -/
theorem decodedPixel_bit1 (s : State) (sh : SheetSel) (r c : Nat) :
    (decodedPixel s sh r c).getLsbD 1 = (presentByte s (plane1Byte sh r c)).getLsbD (bitPos c) := by
  rw [decodedPixel, BitVec.getLsbD_append]
  cases (presentByte s (plane1Byte sh r c)).getLsbD (bitPos c) <;> simp

/-- Two pixels are equal when both their bits are. -/
theorem pixel_ext {a b : Pixel} (h0 : a.getLsbD 0 = b.getLsbD 0) (h1 : a.getLsbD 1 = b.getLsbD 1) : a = b := by
  apply BitVec.eq_of_getLsbD_eq
  intro i hi
  have : i = 0 ∨ i = 1 := by omega
  rcases this with rfl | rfl <;> assumption

/-- The first of the eight bits is the most significant (R50). -/
theorem planeByte_getLsbD (b : Nat → Bool) {x : Nat} (hx : x < 8) : (planeByte b).getLsbD (7 - x) = b x := by
  have : x = 0 ∨ x = 1 ∨ x = 2 ∨ x = 3 ∨ x = 4 ∨ x = 5 ∨ x = 6 ∨ x = 7 := by omega
  have hall : ∀ b0 b1 b2 b3 b4 b5 b6 b7 : Bool,
      let v : Byte := BitVec.ofBool b0 ++ BitVec.ofBool b1 ++ BitVec.ofBool b2 ++ BitVec.ofBool b3 ++ BitVec.ofBool b4
        ++ BitVec.ofBool b5 ++ BitVec.ofBool b6 ++ BitVec.ofBool b7
      v.getLsbD 7 = b0 ∧ v.getLsbD 6 = b1 ∧ v.getLsbD 5 = b2 ∧ v.getLsbD 4 = b3 ∧ v.getLsbD 3 = b4 ∧
        v.getLsbD 2 = b5 ∧ v.getLsbD 1 = b6 ∧ v.getLsbD 0 = b7 := by decide
  obtain ⟨h0, h1, h2, h3, h4, h5, h6, h7⟩ := hall (b 0) (b 1) (b 2) (b 3) (b 4) (b 5) (b 6) (b 7)
  rcases this with rfl | rfl | rfl | rfl | rfl | rfl | rfl | rfl
  exacts [h0, h1, h2, h3, h4, h5, h6, h7]

/-- The bits of a byte ENCODE writes (R66). -/
theorem encodedByte_getLsbD (s : State) (k : Nat) {x : Nat} (hx : x < 8) :
    (encodedByte s k).getLsbD (7 - x) =
      (s.pixel (sheetOf (k / 16 / 256)) (tileRow (k / 16 % 256) + k % 8) (tileCol (k / 16 % 256) + x)).getLsbD
        (k / 8 % 2) := by
  simp only [encodedByte]
  rw [planeByte_getLsbD _ hx]

/-- The plane-0 bit ENCODE writes for a pixel is bit 0 of the pixel (R65, R66). -/
theorem encodedByte_plane0 (s : State) {sh : SheetSel} {r c : Nat} (hr : r < 128) (hc : c < 128) :
    (encodedByte s (plane0Byte sh r c)).getLsbD (bitPos c) = (s.pixel sh r c).getLsbD 0 := by
  obtain ⟨h1, h2, h3⟩ := tile_of_pixel (sh := sh) hr hc
  have e1 : plane0Byte sh r c / 16 = tileOf sh r c := by unfold plane0Byte; omega
  have e2 : plane0Byte sh r c % 8 = r % 8 := by unfold plane0Byte; omega
  have e3 : plane0Byte sh r c / 8 % 2 = 0 := by unfold plane0Byte; omega
  rw [bitPos, encodedByte_getLsbD _ _ (by omega), e1, e2, e3, h1, h2, h3]

/-- The plane-1 bit ENCODE writes for a pixel is bit 1 of the pixel (R65, R66). -/
theorem encodedByte_plane1 (s : State) {sh : SheetSel} {r c : Nat} (hr : r < 128) (hc : c < 128) :
    (encodedByte s (plane1Byte sh r c)).getLsbD (bitPos c) = (s.pixel sh r c).getLsbD 1 := by
  obtain ⟨h1, h2, h3⟩ := tile_of_pixel (sh := sh) hr hc
  have e1 : plane1Byte sh r c / 16 = tileOf sh r c := by unfold plane1Byte; omega
  have e2 : plane1Byte sh r c % 8 = r % 8 := by unfold plane1Byte; omega
  have e3 : plane1Byte sh r c / 8 % 2 = 1 := by unfold plane1Byte; omega
  rw [bitPos, encodedByte_getLsbD _ _ (by omega), e1, e2, e3, h1, h2, h3]

/-- Two plane bytes are equal when they agree on every column. -/
theorem byte_ext {a b : Byte} (h : ∀ x < 8, a.getLsbD (7 - x) = b.getLsbD (7 - x)) : a = b := by
  apply BitVec.eq_of_getLsbD_eq
  intro i hi
  have := h (7 - i) (by omega)
  rwa [show 7 - (7 - i) = i by omega] at this

end Sys2Proof.Machine
end

