-- ==== Sys2Proof/Laws/Decode.lean ====
section
/-! SUPPORT. The decoder as one case split on OP, and how a command's encoding stands to the word it was read from. -/

namespace Sys2Proof

/-- Everything the decoder can answer, by the word's OP (R53, R55, R56). -/
theorem decode_cases (w : Word) :
    decode w = match (fieldOP w).toNat with
      | 1 => if w &&& 0xFFFFFFFF = 0x1 then .ok .decode else .error .reservedBits
      | 2 => if w &&& 0xFFFFFFFF = 0x2 then .ok .encode else .error .reservedBits
      | 3 => if w &&& 0xFFFFFFFF = 0x3 then .ok .zerosh else .error .reservedBits
      | 4 => if w &&& 0xFC8080EF = 0x4 then .ok (.setpix (fieldS w) (fieldROW w) (fieldCOL w) (fieldK w))
          else .error .reservedBits
      | 5 => if w &&& 0xFF8080EF = 0x5 then .ok (.getpix (fieldS w) (fieldROW w) (fieldCOL w))
          else .error .reservedBits
      | 6 => if w &&& 0x00FFFF3F = 0x6 then .ok (.setpal (fieldP w) (fieldK w) (fieldMI w)) else .error .reservedBits
      | 7 => if w &&& 0xFFFFFF3F = 0x7 then .ok (.getpal (fieldP w)) else .error .reservedBits
      | 8 => if w &&& 0x03FFFFFF = 0x8 then .ok (.getmst (fieldMI w)) else .error .reservedBits
      | 9 => if w &&& 0xFCFFFF3F = 0x9 then .ok (.lookup (fieldP w) (fieldK w)) else .error .reservedBits
      | 10 => if w &&& 0xFF80802F = 0xA then .ok (.colorize (fieldS w) (fieldP w) (fieldROW w) (fieldCOL w))
          else .error .reservedBits
      | _ => .error .illegalOp := by
  unfold decode opcodeTable
  generalize fieldOP w = op
  have hall : ∀ op : BitVec 4, op = 0 ∨ op = 1 ∨ op = 2 ∨ op = 3 ∨ op = 4 ∨ op = 5 ∨ op = 6 ∨ op = 7 ∨ op = 8 ∨
      op = 9 ∨ op = 10 ∨ op = 11 ∨ op = 12 ∨ op = 13 ∨ op = 14 ∨ op = 15 := by decide
  rcases hall op with rfl | rfl | rfl | rfl | rfl | rfl | rfl | rfl | rfl | rfl | rfl | rfl | rfl | rfl | rfl | rfl <;>
    rfl

/-- The bits of a field put at its place in a command word (R59). -/
theorem getLsbD_place {n : Nat} (v : BitVec n) (lo i : Nat) :
    (place v lo).getLsbD i = (decide (i < 32) && !decide (i < lo) && v.getLsbD (i - lo)) := by
  simp only [place, BitVec.getLsbD_shiftLeft, BitVec.getLsbD_setWidth]
  by_cases h : i < 32 <;> by_cases h2 : i < lo <;> simp [h, h2]
  intro _; omega

/-- The S bit of the sheet a word selects (R52). -/
theorem toBit_fieldS (w : Word) : (fieldS w).toBit = w.extractLsb' 4 1 := by
  apply BitVec.eq_of_getLsbD_eq
  intro i hi
  have hi0 : i = 0 := by omega
  subst hi0
  cases h : w.getLsbD 4 <;> simp [fieldS, SheetSel.toBit] at h ⊢ <;> simp [h]

/-- The encoding of the command a row reads from a word is the word with the row's fixed bits in place (R55, R59). -/
theorem encode_build (w : Word) : ∀ r ∈ opcodeTable, encode (r.build w) = r.pattern ||| (w &&& ~~~r.mask) := by
  intro r hr
  simp only [opcodeTable, List.mem_cons, List.not_mem_nil, or_false] at hr
  rcases hr with rfl | rfl | rfl | rfl | rfl | rfl | rfl | rfl | rfl | rfl
  all_goals
    simp only [encode, toBit_fieldS]
    apply BitVec.eq_of_getLsbD_eq
    intro k hk
    simp only [BitVec.getLsbD_or, BitVec.getLsbD_and, BitVec.getLsbD_not, getLsbD_place, fieldROW, fieldCOL, fieldK,
      fieldMI, fieldP, BitVec.getLsbD_extractLsb']
    interval_cases k <;> simp

end Sys2Proof
end

