-- ==== Sys2Proof/Laws/PerInstr.lean ====
section
/-! SUPPORT. One lemma per command: the bits its row of R55 requires to be fixed are so in its encoding, at every operand
value. -/

namespace Sys2Proof.Laws.FixedBits

/-- Some row of the opcode table has the command's OP, and the encoding meets its match and mask (R55). -/
def Statement (i : Instr) : Prop :=
  ∃ r ∈ opcodeTable, fieldOP (encode i) = r.op ∧ encode i &&& r.mask = r.pattern

theorem fixed_of_row {i : Instr} (r : OpRow) (hr : r ∈ opcodeTable) (hop : r.pattern.extractLsb' 0 4 = r.op)
    (hm : r.mask.extractLsb' 0 4 = 0xF) (h : encode i &&& r.mask = r.pattern) : Statement i := by
  refine ⟨r, hr, ?_, h⟩
  rw [← hop, ← h, BitVec.extractLsb'_and, hm, fieldOP]
  have hall : ∀ v : BitVec 4, v = v &&& 0xF := by decide
  exact hall _

theorem decode : Statement .decode := fixed_of_row _ (.head _) (by decide) (by decide) (by decide)

theorem encode : Statement .encode := fixed_of_row _ (.tail _ (.head _)) (by decide) (by decide) (by decide)

theorem zerosh : Statement .zerosh := ⟨_, .tail _ (.tail _ (.head _)), by decide, by decide⟩

theorem setpix (s : SheetSel) (row col : BitVec 7) (k : Pixel) : Statement (.setpix s row col k) := by
  refine fixed_of_row _ (.tail _ (.tail _ (.tail _ (.head _)))) (by decide) (by decide) ?_
  apply BitVec.eq_of_getLsbD_eq
  intro j hj
  simp only [Sys2Proof.encode, BitVec.getLsbD_or, BitVec.getLsbD_and, getLsbD_place]
  interval_cases j <;> simp

theorem getpix (s : SheetSel) (row col : BitVec 7) : Statement (.getpix s row col) := by
  refine fixed_of_row _ (.tail _ (.tail _ (.tail _ (.tail _ (.head _))))) (by decide) (by decide) ?_
  apply BitVec.eq_of_getLsbD_eq
  intro j hj
  simp only [Sys2Proof.encode, BitVec.getLsbD_or, BitVec.getLsbD_and, getLsbD_place]
  interval_cases j <;> simp

theorem setpal (p k : BitVec 2) (mi : MasterIndex) : Statement (.setpal p k mi) := by
  refine fixed_of_row _ (.tail _ (.tail _ (.tail _ (.tail _ (.tail _ (.head _)))))) (by decide) (by decide) ?_
  apply BitVec.eq_of_getLsbD_eq
  intro j hj
  simp only [Sys2Proof.encode, BitVec.getLsbD_or, BitVec.getLsbD_and, getLsbD_place]
  interval_cases j <;> simp

theorem getpal (p : BitVec 2) : Statement (.getpal p) := by
  refine fixed_of_row _ (.tail _ (.tail _ (.tail _ (.tail _ (.tail _ (.tail _ (.head _)))))))
    (by decide) (by decide) ?_
  apply BitVec.eq_of_getLsbD_eq
  intro j hj
  simp only [Sys2Proof.encode, BitVec.getLsbD_or, BitVec.getLsbD_and, getLsbD_place]
  interval_cases j <;> simp

theorem getmst (mi : MasterIndex) : Statement (.getmst mi) := by
  refine fixed_of_row _ (.tail _ (.tail _ (.tail _ (.tail _ (.tail _ (.tail _ (.tail _ (.head _))))))))
    (by decide) (by decide) ?_
  apply BitVec.eq_of_getLsbD_eq
  intro j hj
  simp only [Sys2Proof.encode, BitVec.getLsbD_or, BitVec.getLsbD_and, getLsbD_place]
  interval_cases j <;> simp

theorem lookup (p k : BitVec 2) : Statement (.lookup p k) := by
  refine fixed_of_row _ (.tail _ (.tail _ (.tail _ (.tail _ (.tail _ (.tail _ (.tail _ (.tail _ (.head _)))))))))
    (by decide) (by decide) ?_
  apply BitVec.eq_of_getLsbD_eq
  intro j hj
  simp only [Sys2Proof.encode, BitVec.getLsbD_or, BitVec.getLsbD_and, getLsbD_place]
  interval_cases j <;> simp

theorem colorize (s : SheetSel) (p : BitVec 2) (row col : BitVec 7) : Statement (.colorize s p row col) := by
  refine fixed_of_row _
    (.tail _ (.tail _ (.tail _ (.tail _ (.tail _ (.tail _ (.tail _ (.tail _ (.tail _ (.head _))))))))))
    (by decide) (by decide) ?_
  apply BitVec.eq_of_getLsbD_eq
  intro j hj
  simp only [Sys2Proof.encode, BitVec.getLsbD_or, BitVec.getLsbD_and, getLsbD_place]
  interval_cases j <;> simp

end Sys2Proof.Laws.FixedBits
end

