-- ==== Sys2Proof/Machine/HostText.lean ====
section
/-! DEFINITION. The text of a command line (R59), of a host program's line (R60) and of a pseudo-command (R61), read
into the data they stand for. A line that is none of these, or has an operand out of range, is rejected. How spaces may
stand, and that a semicolon starts a comment, is log 13. -/

namespace Sys2Proof.Machine

/-! ### Words and numbers -/

/-- A space or a tab. -/
def isBlank (c : Char) : Bool := c == ' ' || c == '\t'

/-- The text without blanks at either end. -/
def trimBlanks (t : List Char) : List Char := ((t.dropWhile isBlank).reverse.dropWhile isBlank).reverse

/-- The text up to its comment, cut into its first word and the rest. -/
def firstWord (t : List Char) : List Char × List Char :=
  (trimBlanks (t.takeWhile (· != ';'))).span fun c => !isBlank c

/-- The operands of a line, cut at the commas. -/
def cutOperands (t : List Char) : List (List Char) :=
  if trimBlanks t = [] then [] else (t.splitOnP (· == ',')).map trimBlanks

/-- The value of a digit. -/
def readDigit (radix : Nat) (c : Char) : Option Nat :=
  let n := c.toNat
  if 48 ≤ n ∧ n ≤ 57 ∧ n - 48 < radix then some (n - 48)
  else if 65 ≤ n ∧ n ≤ 70 ∧ n - 55 < radix then some (n - 55)
  else if 97 ≤ n ∧ n ≤ 102 ∧ n - 87 < radix then some (n - 87)
  else none

/-- Digits after those of `acc`. -/
def readDigits (radix acc : Nat) : List Char → Option Nat
  | []      => some acc
  | c :: cs => (readDigit radix c).bind fun d => readDigits radix (radix * acc + d) cs

/-- A decimal or `0x` hexadecimal number (R59). -/
def readNumber : List Char → Option Nat
  | []                    => none
  | '0' :: 'x' :: c :: cs => readDigits 16 0 (c :: cs)
  | c :: cs               => readDigits 10 0 (c :: cs)

/-- A number of `n` bits. -/
def readBits (n : Nat) (t : List Char) : Option (BitVec n) :=
  (readNumber t).bind fun v => if v < 2 ^ n then some (.ofNat n v) else none

/-- A sheet, as a number or as `A` or `B` (R59). -/
def readSheet : List Char → Option Nat
  | ['A'] => some 0
  | ['B'] => some 1
  | t     => readNumber t

/-! ### Command lines (R59) -/

/-- A command by its mnemonic and operands. -/
def readCommandParts (m : List Char) (ops : List (List Char)) : Option AsmLine :=
  match ops with
  | [] =>
    if m = "DECODE".toList then some .decode
    else if m = "ENCODE".toList then some .encode
    else if m = "ZEROSH".toList then some .zerosh
    else none
  | [a] => do
    let a ← readNumber a
    if m = "GETPAL".toList then some (.getpal a) else if m = "GETMST".toList then some (.getmst a) else none
  | [a, b] => do
    let a ← readNumber a
    let b ← readNumber b
    if m = "LOOKUP".toList then some (.lookup a b) else none
  | [a, b, c] => do
    let b ← readNumber b
    let c ← readNumber c
    if m = "GETPIX".toList then (readSheet a).map (.getpix · b c)
    else if m = "SETPAL".toList then (readNumber a).map (.setpal · b c)
    else none
  | [a, b, c, d] => do
    let a ← readSheet a
    let b ← readNumber b
    let c ← readNumber c
    let d ← readNumber d
    if m = "SETPIX".toList then some (.setpix a b c d)
    else if m = "COLORIZE".toList then some (.colorize a b c d)
    else none
  | _ => none

/-- A command line with its operands as written (R59). -/
def readCommand (t : List Char) : Option AsmLine :=
  readCommandParts (firstWord t).1 (cutOperands (firstWord t).2)

/-- The word of a command line's text (R59). -/
def assembleText (t : List Char) : Option Word := (readCommand t).bind assemble

/-! ### Host programs (R60, R61) -/

/-- `<reg|offset>`: a register's name, `CHRBUF+n`, `RGBBUF+n`, or an offset (R60). R60 states no range for n: DESIGN
CHOICE, log 13: `CHRBUF+n` is rejected unless n is a byte of CHRBUF (n < 8192) and `RGBBUF+n` unless n is a word of
RGBBUF (n < 16384), so neither names a place past its buffer, be it inside the window. -/
def readOffset (t : List Char) : Option Offset :=
  if t = "CMD".toList then some regCMD
  else if t = "STATUS".toList then some regSTATUS
  else if t = "CHR_LEN".toList then some regCHRLEN
  else if t = "RESULT".toList then some regRESULT
  else if t = "CZ_SIZE".toList then some regCZSIZE
  else if t.take 7 = "CHRBUF+".toList then
    (readNumber (t.drop 7)).bind fun n => if n < Config.chrBytes then some (chrbufOffset n) else none
  else if t.take 7 = "RGBBUF+".toList then
    (readNumber (t.drop 7)).bind fun n => if n < Config.rgbWords then some (rgbbufOffset n) else none
  else readBits 17 t

/-- A pseudo-command by its mnemonic and operands (R61). R61 states no range for `len`, `h` and `w`: DESIGN CHOICE,
log 13: each must be a number of 32 bits, and nothing more is asked of `h` and `w` (see `sizeWord`). -/
def readPseudo (m : List Char) (ops : List (List Char)) : Option (List HostLine) :=
  match ops with
  | [] => if m = "CLRERR".toList then some clrerr else if m = "GETRES".toList then some getres else none
  | [len] => if m = "LOADCHR".toList then (readBits 32 len).map loadchr else none
  | [h, w] => do
    let h ← readBits 32 h
    let w ← readBits 32 w
    if m = "CZSIZE".toList then some (czsize h w) else none
  | [s, p, t] => do
    let s ← readSheet s
    let p ← readBits 2 p
    let t ← readBits 8 t
    if m = "COLORTILE".toList ∧ s < 2 then some (colortile (asmSheet s) p t) else none
  | [s, p, r, c, h, w] => do
    let s ← readSheet s
    let p ← readBits 2 p
    let r ← readBits 7 r
    let c ← readBits 7 c
    let h ← readBits 32 h
    let w ← readBits 32 w
    if m = "COLORRECT".toList ∧ s < 2 then some (colorrect (asmSheet s) p r c h w) else none
  | _ => none

/-- A line of a host program (R60), or a pseudo-command with all its lines (R61). -/
def readHostLine (t : List Char) : Option (List HostLine) :=
  let (m, rest) := firstWord t
  if m = "C".toList then
    (readCommand rest).bind fun l => if l.wellFormed then some [.command l.toInstr] else none
  else if m = "W".toList then
    match cutOperands rest with
    | [o, v] => do
      let off ← readOffset o
      let v ← readBits 32 v
      some [.write off v]
    | _ => none
  else if m = "R".toList then
    match cutOperands rest with
    | [o] => (readOffset o).map ([.read ·])
    | _ => none
  else readPseudo m (cutOperands rest)

end Sys2Proof.Machine
end

