-- ==== Sys2Proof/Tests/Slice0.lean ====
section
/-! SUPPORT. Tests whose expected results stand in the spec (`95_test_vectors.md`, by their labels there), the checks of
well-formedness refusing an ill-formed line each, and a witness for the hypotheses of every statement that has some. -/

namespace Sys2Proof.Tests

open Sys2Proof.Machine

/-- The state an outcome goes on with. -/
def after : Host.Outcome State Fault Refusal → State
  | .next s => s
  | _ => State.reset

/-- A reset state with TEST_RESET_SUBPAL (95, section 0): a test value, not the hardware's. -/
def base : State :=
  State.reset.setSubpal #v[#v[0, 1, 2, 3], #v[4, 5, 6, 7], #v[8, 9, 10, 11], #v[12, 13, 14, 15]]

/-- A state whose port holds the given events. -/
def port (q : List HostEvent) : State := base.setPending q

/-! ### Decoding: words from the spec (95, section 2.1) -/

theorem test_decode_codec_words :
    decode 0x00000001 = .ok .decode ∧ decode 0x00000002 = .ok .encode ∧ decode 0x00000003 = .ok .zerosh ∧
      decode 0x02050314 = .ok (.setpix .B 3 5 2) ∧ decode 0x00050315 = .ok (.getpix .B 3 5) := by decide

theorem test_decode_codec_bits :
    decode 0b00000011011111110111111100000100#32 = .ok (.setpix .A 127 127 3) ∧
      decode 0b00000000011111110111111100010101#32 = .ok (.getpix .B 127 127) := by decide

theorem test_decode_palette_bits :
    decode 0b10101001000000000000000010000110#32 = .ok (.setpal 2 1 42) ∧
      decode 0b00000000000000000000000010000111#32 = .ok (.getpal 2) ∧
      decode 0b11111100000000000000000000001000#32 = .ok (.getmst 63) := by decide

theorem test_decode_colorizer_bits :
    decode 0b00000001000000000000000010001001#32 = .ok (.lookup 2 1) ∧
      decode 0b00000000011110000111100011011010#32 = .ok (.colorize .B 3 120 120) := by decide

theorem test_decode_illegal_op :
    [(0x00000000 : Word), 0x0000000B, 0x0000000F, 0xFFFFFFFF, 0x00000020].map decode =
      List.replicate 5 (.error .illegalOp) := by decide

theorem test_decode_reserved_bits :
    [(0x00000011 : Word), 0x00000021, 0x00008001, 0x80000001, 0x01000005, 0x00000107, 0x04000009, 0x02850314, 0x00000097,
      0xA9008086, 0x0100000A].map decode = List.replicate 11 (.error .reservedBits) := by decide

theorem test_decodeTableWord : decodeTableWord 32 0x0010084A = some (.colorize .A 1 8 16) := by decide

/-- No word can belong to two rows: two rows' fixed bits differ where both are fixed. -/
theorem test_rows_do_not_overlap :
    opcodeTable.Pairwise fun a b => a.pattern &&& (a.mask &&& b.mask) ≠ b.pattern &&& (a.mask &&& b.mask) := by decide

/-! ### The assembler (R59) and its refusals, one for each check -/

theorem test_assemble_setpix : assemble (.setpix 1 3 5 2) = some 0x02050314 := by decide

theorem test_assemble_colorize : assemble (.colorize 0 0 1 0) = some 0x0000010A := by decide

theorem smoke_sheet : (AsmLine.setpix 2 0 0 0).wellFormed = false ∧ (AsmLine.getpix 2 0 0).wellFormed = false ∧
    (AsmLine.colorize 2 0 0 0).wellFormed = false := by decide

theorem smoke_row : (AsmLine.setpix 0 128 0 0).wellFormed = false ∧ (AsmLine.getpix 0 128 0).wellFormed = false ∧
    (AsmLine.colorize 0 0 128 0).wellFormed = false := by decide

theorem smoke_col : (AsmLine.setpix 0 0 128 0).wellFormed = false ∧ (AsmLine.getpix 0 0 128).wellFormed = false ∧
    (AsmLine.colorize 0 0 0 128).wellFormed = false := by decide

theorem smoke_value : (AsmLine.setpix 0 0 0 4).wellFormed = false ∧ (AsmLine.lookup 0 4).wellFormed = false ∧
    (AsmLine.setpal 0 4 0).wellFormed = false := by decide

theorem smoke_subpalette : (AsmLine.setpal 4 0 0).wellFormed = false ∧ (AsmLine.getpal 4).wellFormed = false ∧
    (AsmLine.lookup 4 0).wellFormed = false ∧ (AsmLine.colorize 0 4 0 0).wellFormed = false := by decide

theorem smoke_master : (AsmLine.setpal 0 0 64).wellFormed = false ∧ (AsmLine.getmst 64).wellFormed = false := by decide

/-! ### The codec (95, section 2.3) -/

/-- C1's buffer with LEN = 16. -/
def c1 : State := (base.setChrLen 16).setChrbuf
  [(0, 0x55), (1, 0xF0), (2, 0), (3, 0), (4, 0), (5, 0), (6, 0), (7, 0), (8, 0x33), (9, 0xCC), (10, 0), (11, 0), (12, 0),
    (13, 0), (14, 0), (15, 0)]

/-- C1: row 0 is 0,1,2,3,0,1,2,3 and row 1 is 3,3,1,1,2,2,0,0. -/
theorem test_decode_C1 : (List.range 8).map (decodedPixel c1 .A 0) = [0, 1, 2, 3, 0, 1, 2, 3] ∧
    (List.range 8).map (decodedPixel c1 .A 1) = [3, 3, 1, 1, 2, 2, 0, 0] ∧
    (after (exec .decode c1)).pixel .A 0 3 = 3 := by decide

/-- C2: with LEN = 17 tile 1 has plane 0 of row 0 and no plane 1. -/
theorem test_decode_C2 :
    decodedPixel (((c1.setChrByte 16 0xFF).setChrByte 24 0xFF).setChrLen 17) .A 0 8 = 1 ∧
      decodedPixel (((c1.setChrByte 16 0xFF).setChrByte 24 0xFF).setChrLen 17) .A 1 8 = 0 := by decide

/-- C7: 0,1,2,3,0,1,2,3 packs to 0x55 and 0x33. -/
theorem test_encode_C7 :
    let t := after (exec .encode (base.setSheet [(1, 1), (2, 2), (3, 3), (5, 1), (6, 2), (7, 3)]))
    t.chrByte 0 = 0x55 ∧ t.chrByte 8 = 0x33 ∧ t.chrByte 1 = 0 ∧ t.chrLen = 8192 := by decide

/-- C8: SHEET[1][127][127] = 3 and SHEET[0][9][17] = 2 set one bit each of bytes 8183, 8191 and 297. -/
theorem test_encode_C8 :
    let s := base.setSheet [(1169, 2), (32767, 3)]
    encodedByte s 297 = 0x40 ∧ encodedByte s 289 = 0 ∧ encodedByte s 8183 = 0x01 ∧ encodedByte s 8191 = 0x01 := by
  decide

theorem test_zerosh_C11 :
    let t := after (exec .zerosh (c1.setSheet [(1169, 2), (32767, 3)]))
    t.pixel .B 127 127 = 0 ∧ t.pixel .A 9 17 = 0 ∧ t.chrByte 0 = 0x55 ∧ t.chrLen = 16 := by decide

theorem test_setpix_C13 :
    let t := after (exec (.setpix .A 127 127 3) base)
    t.pixel .A 127 127 = 3 ∧ t.pixel .B 127 127 = 0 ∧ t.sheet = [(16383, 3)] := by decide

/-- Writing 0 unlists the cell: equal sheets are equal lists (log 2). -/
theorem test_setpix_zero_unlists :
    (after (exec (.setpix .A 127 127 0) (after (exec (.setpix .A 127 127 3) base)))).sheet = [] := by decide

theorem test_getpix_C12 :
    (after (exec (.getpix .B 3 5) (after (exec (.setpix .B 3 5 2) base)))).result = 0x00000002 := by decide

/-! ### Palettes (95, section 2.4) -/

theorem test_setpal_P1 :
    let t := after (exec (.setpal 2 1 42) base)
    t.subpalEntry 2 1 = 42 ∧ t.subpalEntry 2 0 = 8 ∧ t.subpalEntry 1 1 = 5 := by decide

theorem test_getpal_P1 : (after (exec (.getpal 2) (after (exec (.setpal 2 1 42) base)))).result = 0x0B0A2A08 := by decide

theorem test_getpal_P4 : (after (exec (.getpal 3) base)).result = 0x0F0E0D0C := by decide

theorem test_getmst_P3 : (after (exec (.getmst 63) base)).result = (Config.master 63).setWidth 32 := rfl

/-! ### The colorizer (95, section 2.5) -/

theorem test_lookup_Z1 :
    (after (exec (.lookup 2 1) (after (exec (.setpal 2 1 42) base)))).result = (Config.master 42).setWidth 32 := rfl

theorem test_lookup_Z3 : (after (exec (.lookup 3 3) base)).result = (Config.master 15).setWidth 32 := rfl

/-- P3, steps 6 to 11: the region (8,16) to (9,17) of sheet A, stride 2, and the sentinel after it. -/
theorem test_colorize_P3 :
    let s := ((base.setSheet [(1040, 1), (1041, 2), (1168, 3)]).setCzSize 0x0202).setRgbWord 4 0xDEADBEEF
    let t := after (exec (.colorize .A 1 8 16) s)
    t.rgbWord 0 = (Config.master 5).setWidth 32 ∧ t.rgbWord 1 = (Config.master 6).setWidth 32 ∧
      t.rgbWord 2 = (Config.master 7).setWidth 32 ∧ t.rgbWord 3 = (Config.master 4).setWidth 32 ∧
      t.rgbWord 4 = 0xDEADBEEF := ⟨rfl, rfl, rfl, rfl, rfl⟩

/-- Z6 is legal; Z7 to Z13 are BAD_REGION. -/
theorem test_regions :
    regionLegal 0x0101 127 127 = true ∧ regionLegal 0x8080 0 0 = true ∧ regionLegal 0x0008 0 0 = false ∧
      regionLegal 0x0800 0 0 = false ∧ regionLegal 0x8101 0 0 = false ∧ regionLegal 0x0181 0 0 = false ∧
      regionLegal 0x8001 1 0 = false ∧ regionLegal 0x0808 120 121 = false ∧ regionLegal 0xFFFF 127 127 = false := by
  decide

/-! ### Errors and host accesses (95, sections 2.2 and 2.6) -/

/-- E1, E2: the first error's code is kept. -/
theorem test_error_E2 :
    let t := after (runCommand 0x00000011 (after (runCommand 0x00000000 base)))
    statusWord t.err t.errcode = 0x00000011 := by decide

/-- E3: a write of 1 clears, a write of 0 does not. -/
theorem test_status_clear :
    let s := (port [.memWrite 0x004 4 1]).setStatus true 3
    let u := (port [.memWrite 0x004 4 0]).setStatus true 3
    statusWord (after (step s)).err (after (step s)).errcode = 0 ∧
      statusWord (after (step u)).err (after (step u)).errcode = 0x31 := by decide

/-- E4: COLORIZE with CZ_SIZE = 0. -/
theorem test_error_E4 :
    let t := after (runCommand 0x0000000A base)
    statusWord t.err t.errcode = 0x00000031 := by decide

theorem test_chrbuf_write_read :
    let t := after (step (port [.memWrite 0x02000 4 0x0000F155]))
    t.chrByte 0 = 0x55 ∧ t.chrByte 1 = 0xF1 ∧ hostRead (target 0x02000 4) t = .data 0x0000F155 := by decide

theorem test_chrLen_write :
    hostRead .chrLen (after (step (port [.memWrite 0x008 4 0x00012345]))) = .data 0x00002345 := by decide

theorem test_czSize_write :
    hostRead .czSize (after (step (port [.memWrite 0x010 4 0xFFFF0808]))) = .data 0x00000808 := by decide

theorem test_rgbbuf_write :
    (after (step (port [.memWrite 0x10010 4 0xDEADBEEF]))).rgbWord 4 = 0xDEADBEEF := by decide

theorem test_bus_errors :
    [HostEvent.memWrite 0x00014 4 5, .memRead 0x04000 4, .memRead 0x02002 4, .memRead 0x02000 1,
      .memWrite 0x00008 2 7].map (fun e => (after (step (port [e]))).response) = List.replicate 5 (some .busError) := by
  decide

theorem test_first_step_runs_the_word :
    (after (step (State.reset.withFetchWord 32 0x02050314))).pixel .B 3 5 = 2 := by decide

theorem test_host_program :
    (base.withProgram (loadchr 16 ++ getres)).pending =
      [.memWrite 0x008 4 16, .memWrite 0x000 4 0x00000001, .memRead 0x00C 4] := by decide

theorem test_reset_memory_wf : Memory.wf State.reset = true := by decide

/-! ### Text (R59 to R61) -/

/-- The example of R59, with its comment, and a line out of range. -/
theorem test_assemble_text :
    assembleText "SETPIX B, 3, 5, 2   ; S=s".toList = some 0x02050314 ∧
      assembleText "SETPAL 2, 1, 0x2A".toList = some 0xA9000086 ∧ assembleText "GETMST 64".toList = none := by decide

/-- Lines of 95's host programs and R61's pseudo-commands. -/
theorem test_host_text :
    readHostLine "W CHRBUF+4, 0x0000F155".toList = some [.write 0x02004 0x0000F155] ∧
      readHostLine "R RGBBUF+4".toList = some [.read 0x10010] ∧
      readHostLine "C GETPIX B, 3, 5".toList = some [.command (.getpix .B 3 5)] ∧
      readHostLine "COLORTILE A, 1, 18".toList =
        some [.write 0x010 0x0808, .command (.colorize .A 1 8 16)] ∧
      readHostLine "CLRERR".toList = some [.write 0x004 1] := by decide

/-! ### Witnesses: the hypotheses of the statements can be met -/

/-- EncodeOfDecodeIsTheWord, and the first clause of OperandsAreTheFieldBits. -/
theorem witness_decode_ok : ∃ w s row col k, decode w = .ok (.setpix s row col k) := ⟨0x02050314, _, _, _, _, rfl⟩

/-- OperandsAreTheFieldBits, its other clauses. -/
theorem witness_operands :
    (∃ w s row col, decode w = .ok (.getpix s row col)) ∧ (∃ w p k mi, decode w = .ok (.setpal p k mi)) ∧
      (∃ w p, decode w = .ok (.getpal p)) ∧ (∃ w mi, decode w = .ok (.getmst mi)) ∧
      (∃ w p k, decode w = .ok (.lookup p k)) ∧ ∃ w s p row col, decode w = .ok (.colorize s p row col) :=
  ⟨⟨0x00050315, _, _, _, rfl⟩, ⟨0xA9000086, _, _, _, rfl⟩, ⟨0x00000087, _, rfl⟩, ⟨0xFC000008, _, rfl⟩,
    ⟨0x01000089, _, _, rfl⟩, ⟨0x007878DA, _, _, _, _, rfl⟩⟩

/-- CommandChecksInOrder: an illegal OP at each end of its two ranges, and a row with and without a reserved bit. -/
theorem witness_command_checks :
    (BitVec.extractLsb' 0 4 (0x00000000 : Word)).toNat = 0 ∧ 0xB ≤ (BitVec.extractLsb' 0 4 (0x0000000B : Word)).toNat ∧
      0xB ≤ (BitVec.extractLsb' 0 4 (0x0000000F : Word)).toNat ∧
      ∃ r ∈ opcodeTable, BitVec.extractLsb' 0 4 (0x00000011 : Word) = r.op ∧
        (0x00000011 : Word) &&& r.mask ≠ r.pattern ∧ BitVec.extractLsb' 0 4 (0x00000001 : Word) = r.op ∧
        (0x00000001 : Word) &&& r.mask = r.pattern :=
  ⟨by decide, by decide, by decide, _, .head _, by decide, by decide, by decide, by decide⟩

/-- AssembledLineKeepsItsOperands, at the ends of the ranges. -/
theorem witness_line :
    (AsmLine.setpix 1 127 127 3).wellFormed = true ∧ (AsmLine.setpal 3 3 63).wellFormed = true ∧
      (AsmLine.getmst 64).wellFormed = false := by decide

/-- StepRunsTheDecodedCommand: a write of a command, a write of no command, a read. -/
theorem witness_step_runs :
    (port [.memWrite 0x000 4 1]).pending = .memWrite 0x000 4 1 :: [] ∧ decode 1 = .ok .decode ∧
      (port [.memWrite 0x000 4 0]).pending = .memWrite 0x000 4 0 :: [] ∧ decode 0 = .error .illegalOp ∧
      (port [.memRead 0x000 4]).pending = .memRead 0x000 4 :: [] := by decide

/-- StatusIsTouchedOnlyByRaisingTheError: one word of each of the three errors, and one of none. -/
theorem witness_command_error :
    (port [.memWrite 0x000 4 0xA]).pending = .memWrite 0x000 4 0xA :: [] ∧
      commandError base.czSize 0x0000000A = some .badRegion ∧ commandError base.czSize 0x00000000 = some .illegalOp ∧
      commandError base.czSize 0x00000011 = some .reservedBits ∧ commandError base.czSize 0x00000001 = none ∧
      commandError 0x0101 0x0000000A = none := by decide

/-- StatusWriteClearsOnBitZero. -/
theorem witness_status_write :
    (port [.memWrite 0x004 4 1]).pending = .memWrite 0x004 4 1 :: [] ∧ BitVec.getLsbD (1 : Word) 0 = true ∧
      (port [.memWrite 0x004 4 2]).pending = .memWrite 0x004 4 2 :: [] ∧ BitVec.getLsbD (2 : Word) 0 = false := by decide

/-- RegisterReadsReturnTheFields and RegisterWritesStoreTheFields: every register's event. -/
theorem witness_register_access :
    (∀ off : Offset, (port [.memRead off 4]).pending = .memRead off 4 :: []) ∧
      ∀ off : Offset, (port [.memWrite off 4 7]).pending = .memWrite off 4 7 :: [] := ⟨fun _ => rfl, fun _ => rfl⟩

/-- UnsupportedAccessIsBusError: a wrong width, and a misaligned offset. -/
theorem witness_unsupported :
    ((1 : Nat) ≠ 4 ∨ (0x02000 : Offset).toNat % 4 ≠ 0) ∧ ((4 : Nat) ≠ 4 ∨ (0x02002 : Offset).toNat % 4 ≠ 0) ∧
      (port [.memRead 0x02002 4]).pending = .memRead 0x02002 4 :: [] ∧
      (port [.memWrite 0x00008 2 7]).pending = .memWrite 0x00008 2 7 :: [] := by decide

/-- ReservedOffsetIsBusError: both ends of both ranges. -/
theorem witness_reserved :
    ([(0x00014 : Offset), 0x01FFC, 0x01FFF, 0x04000, 0x0FFFC, 0x0FFFF].all fun off =>
      decide ((0x00014 ≤ off.toNat ∧ off.toNat ≤ 0x01FFF) ∨ (0x04000 ≤ off.toNat ∧ off.toNat ≤ 0x0FFFF))) = true ∧
      (port [.memRead 0x00014 4]).pending = .memRead 0x00014 4 :: [] ∧
      (port [.memWrite 0x0FFFC 4 7]).pending = .memWrite 0x0FFFC 4 7 :: [] := by decide

/-- ChrbufReadIsLittleEndian and ChrbufWriteIsLittleEndian: both ends of the window. -/
theorem witness_chrbuf_access :
    ([(0x02000 : Offset), 0x03FFC].all fun off =>
      decide (0x02000 ≤ off.toNat ∧ off.toNat ≤ 0x03FFC ∧ off.toNat % 4 = 0)) = true ∧
      (port [.memRead 0x03FFC 4]).pending = .memRead 0x03FFC 4 :: [] ∧
      (port [.memWrite 0x02000 4 7]).pending = .memWrite 0x02000 4 7 :: [] := by decide

/-- RgbbufAccessIsOneWord: both ends of the window. -/
theorem witness_rgbbuf_access :
    ([(0x10000 : Offset), 0x1FFFC].all fun off =>
      decide (0x10000 ≤ off.toNat ∧ off.toNat ≤ 0x1FFFC ∧ off.toNat % 4 = 0)) = true ∧
      (port [.memRead 0x10000 4]).pending = .memRead 0x10000 4 :: [] ∧
      (port [.memWrite 0x1FFFC 4 7]).pending = .memWrite 0x1FFFC 4 7 :: [] := by decide

/-- ReadsHaveNoSideEffect. -/
theorem witness_two_reads :
    (port [.memRead 0x00C 4, .memRead 0x00C 4]).pending = .memRead 0x00C 4 :: .memRead 0x00C 4 :: [] := by decide

/-- WindowIsOneAlignedRange: the first address of the window. -/
theorem witness_window : windowOffset Config.base = some 0 := by simp [windowOffset]

/-- EveryStepTakesOneEvent: a state with no event. -/
theorem witness_idle : State.reset.pending = [] := rfl

/-- ResetEventGivesTheResetValues. -/
theorem witness_reset_event : (port [.reset, .memRead 0x00C 4]).pending = .reset :: [.memRead 0x00C 4] := rfl

/-- StepKeepsTheInvariant. -/
theorem witness_invariant : ∃ s t, Inv s ∧ step s = .next t :=
  ⟨State.reset, State.reset, ⟨by decide, by decide⟩, rfl⟩

/-- SheetChangesOnlyByItsWriters: by a reset and by a command. -/
theorem witness_sheet_changes :
    (∃ s t, step s = .next t ∧ t.sheet ≠ s.sheet ∧ NextIsReset s) ∧
      ∃ s t, step s = .next t ∧ t.sheet ≠ s.sheet ∧ NextIsCommand s 0x02050314 :=
  ⟨⟨(port [.reset]).setSheet [(0, 1)], _, rfl, by decide, rfl⟩,
    ⟨port [.memWrite 0x000 4 0x02050314], _, rfl, by decide, rfl⟩⟩

/-- SubpalChangesOnlyBySetpalOrReset. -/
theorem witness_subpal_changes : ∃ s t, step s = .next t ∧ t.subpal ≠ s.subpal :=
  ⟨port [.memWrite 0x000 4 0xA9000086], _, rfl, by decide⟩

/-- ResultChangesOnlyByTheGets. -/
theorem witness_result_changes : ∃ s t, step s = .next t ∧ t.result ≠ s.result :=
  ⟨port [.memWrite 0x000 4 0x00000087], _, rfl, by decide⟩

/-- ChrbufChangesOnlyByItsWriters. -/
theorem witness_chrbuf_changes : ∃ s t, step s = .next t ∧ t.chrbuf ≠ s.chrbuf :=
  ⟨port [.memWrite 0x02000 4 7], _, rfl, by decide⟩

/-- RgbbufChangesOnlyByItsWriters. -/
theorem witness_rgbbuf_changes : ∃ s t, step s = .next t ∧ t.rgbbuf ≠ s.rgbbuf :=
  ⟨port [.memWrite 0x10000 4 7], _, rfl, by decide⟩

/-- ErrIsStickyUntilCleared: set by a command, cleared by a write of 1. -/
theorem witness_err_changes :
    (∃ s t, step s = .next t ∧ s.err = false ∧ t.err = true) ∧ ∃ s t, step s = .next t ∧ s.err = true ∧ t.err = false :=
  ⟨⟨port [.memWrite 0x000 4 0], _, rfl, rfl, rfl⟩, ⟨(port [.memWrite 0x004 4 1]).setStatus true 1, _, rfl, rfl, rfl⟩⟩

/-- DecodeUnpacksEveryTile, EncodePacksEveryTile and ColortileColorsOneTile: the last tile and its last pixel. -/
theorem witness_tile : (511 : Nat) < 512 ∧ (7 : Nat) < 8 := by decide

/-- PixelBitsAreTwoChrBits and CodecRoundTripLaws: the last pixel, and lengths that cover the buffer. -/
theorem witness_full_buffer :
    (127 : Nat) < 128 ∧ 8192 ≤ (base.setChrLen 8192).chrLen.toNat ∧ min (base.setChrLen 8192).chrLen.toNat 8192 = 8192 ∧
      min (base.setChrLen 16383).chrLen.toNat 8192 = 8192 := by decide

/-- EncodeThenDecodeRestoresTheSheetData. -/
theorem witness_encode_decode :
    ∃ s a b, Memory.wf s = true ∧ s.sheet ≠ [] ∧ exec .encode s = .next a ∧ exec .decode a = .next b :=
  ⟨base.setSheet [(1169, 2)], _, _, by decide, by decide, exec_encode _, exec_decode _⟩

/-- DecodeReadsOnlyThePresentBytes: two buffers that differ past the length. -/
theorem witness_present_bytes :
    (c1.setChrByte 16 1).chrLen = c1.chrLen ∧
      ∀ k < min c1.chrLen.toNat 8192, (c1.setChrByte 16 1).chrByte k = c1.chrByte k :=
  ⟨rfl, fun k hk => by
    have : k < 16 := by simpa [c1] using hk
    rw [State.chrByte_setChrByte, if_neg (by omega)]⟩

/-- EncodeReadsOnlyTheSheets: two states with equal pixels that differ in CHRBUF, CHR_LEN and RESULT. -/
theorem witness_equal_pixels :
    let u := ((base.setChrbuf [(0, 1)]).setChrLen 7).setResult 9
    (∀ sh r c, r < 128 → c < 128 → u.pixel sh r c = base.pixel sh r c) ∧ u.chrbuf ≠ base.chrbuf ∧
      u.chrLen ≠ base.chrLen ∧ u.result ≠ base.result :=
  ⟨fun _ _ _ _ _ => rfl, by decide, by decide, by decide⟩

/-- ZeroshClearsBothSheets: a state with LEN = 0. -/
theorem witness_empty_length : base.chrLen = 0 := rfl

/-- SetpixWritesOneCell and SetpixTouchesOneTileAndTwoBits: another cell, a changed pixel, and a changed bit. -/
theorem witness_setpix :
    ¬(SheetSel.B = SheetSel.A ∧ (127 : Nat) = (3 : BitVec 7).toNat ∧ (127 : Nat) = (5 : BitVec 7).toNat) ∧
      (base.setPixel .A 3 5 2).pixel .A 3 5 ≠ base.pixel .A 3 5 ∧
      (encodedByte (base.setPixel .A 3 5 2) 11).getLsbD 2 ≠ (encodedByte base 11).getLsbD 2 := by decide

/-- SetpalWritesOneEntry: another entry of the same sub-palette. -/
theorem witness_setpal : ¬((2 : BitVec 2) = 2 ∧ (0 : BitVec 2) = 1) := by decide

/-- SetpalIsSeenByLaterCommands and ColorizeIsLookupPerPixel: a legal region whose first pixel is known. -/
theorem witness_legal_region :
    regionLegal (base.setCzSize 0x0101).czSize 127 127 = true ∧ (base.setCzSize 0x0101).pixel .B 127 127 = 0 ∧
      0 < czHeight (base.setCzSize 0x0101).czSize ∧ 0 < czWidth (base.setCzSize 0x0101).czSize := by decide

/-- The hypotheses of ColorizeWritesTheRegion on CZ_SIZE, ROW and COL. -/
def regionHyps (sz : BitVec 16) (row col : BitVec 7) : Prop :=
  1 ≤ (sz.extractLsb' 8 8).toNat ∧ (sz.extractLsb' 8 8).toNat ≤ 128 ∧ 1 ≤ (sz.extractLsb' 0 8).toNat ∧
    (sz.extractLsb' 0 8).toNat ≤ 128 ∧ row.toNat + (sz.extractLsb' 8 8).toNat ≤ 128 ∧
    col.toNat + (sz.extractLsb' 0 8).toNat ≤ 128

/-- ColorizeWritesTheRegion: the smallest region at the last pixel, and the whole sheet. -/
theorem witness_colorize : regionHyps 0x0101 127 127 ∧ regionHyps 0x8080 0 0 := by unfold regionHyps; decide

/-- ColorizeOffTheSheetIsBadRegion: each condition broken (Z7 to Z12). -/
theorem witness_bad_region :
    ¬regionHyps 0x0008 0 0 ∧ ¬regionHyps 0x0800 0 0 ∧ ¬regionHyps 0x8101 0 0 ∧ ¬regionHyps 0x0181 0 0 ∧
      ¬regionHyps 0x8001 1 0 ∧ ¬regionHyps 0x0808 120 121 := by unfold regionHyps; decide

/-- CommandsAreIdempotent. -/
theorem witness_run : ∃ w s t, runCommand w s = .next t := ⟨0x02050314, base, _, rfl⟩

/-- StatusReportsTheFirstFailure: a sequence whose second command fails first, and one that succeeds. -/
theorem witness_sequence :
    (port [.memWrite 0x004 4 1, .memWrite 0x000 4 1, .memWrite 0x000 4 0x11, .memWrite 0x000 4 0, .memRead 0x004 4]).pending
        = .memWrite 0x004 4 1 :: ([1, 0x11, 0].map (HostEvent.memWrite 0x000 4 ·) ++ .memRead 0x004 4 :: []) ∧
      firstError base.czSize [1, 0x11, 0] = some .reservedBits ∧ firstError base.czSize [1, 2] = none := by decide

end Sys2Proof.Tests
end

section
/-! ### COLORTILE (R61): the two accesses, one rule each, and the tile they colour -/

namespace Sys2Proof

/-- The fields the decoder reads back from the word of a COLORIZE (R52, R59). -/
theorem fields_encode_colorize (s : SheetSel) (p : BitVec 2) (row col : BitVec 7) :
    fieldOP (encode (.colorize s p row col)) = 0xA ∧ fieldS (encode (.colorize s p row col)) = s ∧
      fieldP (encode (.colorize s p row col)) = p ∧ fieldROW (encode (.colorize s p row col)) = row ∧
      fieldCOL (encode (.colorize s p row col)) = col := by
  have hS : fieldS (encode (.colorize s p row col)) = s := by
    cases s <;> simp [fieldS, encode, getLsbD_place, SheetSel.toBit, -BitVec.getLsbD_eq_getElem]
  refine ⟨?_, hS, ?_, ?_, ?_⟩
  all_goals
    apply BitVec.eq_of_getLsbD_eq
    intro k hk
    simp only [fieldOP, fieldP, fieldROW, fieldCOL, encode, BitVec.getLsbD_extractLsb', BitVec.getLsbD_or,
      getLsbD_place]
    interval_cases k <;> simp

/-- The must-be-zero bits and the OP of the word of a COLORIZE are as its row of the opcode table asks (R55). -/
theorem encode_colorize_and_mask (s : SheetSel) (p : BitVec 2) (row col : BitVec 7) :
    encode (.colorize s p row col) &&& 0xFF80802F = 0xA := by
  apply BitVec.eq_of_getLsbD_eq
  intro k hk
  simp only [encode, BitVec.getLsbD_and, BitVec.getLsbD_or, getLsbD_place]
  interval_cases k <;> simp

theorem decode_encode_colorize (s : SheetSel) (p : BitVec 2) (row col : BitVec 7) :
    decode (encode (.colorize s p row col)) = .ok (.colorize s p row col) := by
  obtain ⟨hOP, hS, hP, hROW, hCOL⟩ := fields_encode_colorize s p row col
  rw [decode_cases, hOP, hS, hP, hROW, hCOL]
  exact if_pos (encode_colorize_and_mask s p row col)

namespace Machine

/-! ### The two kinds of access -/

/-- A host program's write to CZ_SIZE completes, and stores the low 16 bits of its value (R27). -/
theorem step_write_czSize {s : State} {v : Word} {rest : List HostEvent}
    (h : s.pending = (HostLine.write regCZSIZE v).event :: rest) :
    step s = .next ((answered s rest .done).setCzSize (v.extractLsb' 0 16)) := by
  rw [step_event h]
  show hostWrite (target 0x010 4) v (s.setPending rest) = _
  rw [target_czSize]
  rfl

/-- A host program's command completes its access, and runs as the command its word decodes to (R38, R60). -/
theorem step_command {s : State} {i : Instr} {rest : List HostEvent}
    (h : s.pending = (HostLine.command i).event :: rest) (hi : decode (encode i) = .ok i) :
    step s = exec i (answered s rest .done) := by
  rw [step_event h]
  show hostWrite (target 0x000 4) (encode i) (s.setPending rest) = _
  rw [target_cmd]
  exact runCommand_ok hi _

/-! ### COLORIZE -/

/-- A legal COLORIZE changes RGBBUF and nothing else (R80). -/
theorem exec_colorize_frame {s t : State} {sh : SheetSel} {p : BitVec 2} {row col : BitVec 7}
    (hlegal : regionLegal s.czSize row col = true) (ht : exec (.colorize sh p row col) s = .next t) :
    t = s.setRgbbuf t.rgbbuf := by
  rw [exec_colorize_legal hlegal] at ht
  injection ht with ht
  rw [← ht]
  rfl

/-- The word of RGBBUF that a legal COLORIZE writes for pixel (i, j) of its region (R80). -/
theorem rgbWord_exec_colorize {s t : State} {sh : SheetSel} {p : BitVec 2} {row col : BitVec 7}
    (hlegal : regionLegal s.czSize row col = true) (ht : exec (.colorize sh p row col) s = .next t) {i j : Nat}
    (hi : i < czHeight s.czSize) (hj : j < czWidth s.czSize) :
    t.rgbWord (i * czWidth s.czSize + j) = rgbWordOf (s.colorOf p (s.pixel sh (row.toNat + i) (col.toNat + j))) := by
  rw [exec_colorize_legal hlegal] at ht
  injection ht with ht
  have hn : i * czWidth s.czSize + j < czHeight s.czSize * czWidth s.czSize := by
    calc i * czWidth s.czSize + j < (i + 1) * czWidth s.czSize := by rw [Nat.add_one_mul]; omega
      _ ≤ czHeight s.czSize * czWidth s.czSize := Nat.mul_le_mul_right _ hi
  have hdiv : (i * czWidth s.czSize + j) / czWidth s.czSize = i := by
    rw [Nat.mul_comm, Nat.mul_add_div (by omega), Nat.div_eq_of_lt hj, Nat.add_zero]
  have hmod : (i * czWidth s.czSize + j) % czWidth s.czSize = j := by
    rw [Nat.mul_comm, Nat.mul_add_mod, Nat.mod_eq_of_lt hj]
  rw [← ht, State.rgbWord_fillRgb, if_pos hn, hdiv, hmod]

/-! ### The region of a tile -/

/-- `ROW` and `COL` of a COLORTILE hold the tile's top row and leftmost column: both are below 128 (R11, R61). -/
theorem toNat_ofNat_tile (t : BitVec 8) :
    (BitVec.ofNat 7 (tileRow t.toNat)).toNat = tileRow t.toNat ∧
      (BitVec.ofNat 7 (tileCol t.toNat)).toNat = tileCol t.toNat := by
  have := t.isLt
  rw [BitVec.toNat_ofNat, BitVec.toNat_ofNat]
  unfold tileRow tileCol
  omega

/-- The height and the width in the CZ_SIZE of a tile (R27, R61). -/
theorem czSize_tile : czHeight 0x0808 = 8 ∧ czWidth 0x0808 = 8 := by decide

/-- The 8x8 region at a tile's corner lies on the sheet (R11, R81). -/
theorem regionLegal_tile (t : BitVec 8) :
    regionLegal 0x0808 (.ofNat 7 (tileRow t.toNat)) (.ofNat 7 (tileCol t.toNat)) = true := by
  have := t.isLt
  rw [regionLegal_iff, (toNat_ofNat_tile t).1, (toNat_ofNat_tile t).2, czSize_tile.1, czSize_tile.2]
  unfold tileRow tileCol
  omega

/-! ### COLORTILE -/

/-- The state in which COLORTILE's COLORIZE runs: both accesses are taken from the port and completed, and CZ_SIZE
says 8x8 (R61). -/
def sizedForTile (s : State) : State := (answered s s.pending .done).setCzSize 0x0808

/-- The COLORIZE of COLORTILE: its region starts at the tile's corner (R11, R61). -/
def tileColorize (sh : SheetSel) (p : BitVec 2) (t : BitVec 8) : Instr :=
  .colorize sh p (.ofNat 7 (tileRow t.toNat)) (.ofNat 7 (tileCol t.toNat))

/-- COLORTILE's first access: CZ_SIZE is written, and the COLORIZE is next (R61). -/
theorem step_colortile (s : State) (sh : SheetSel) (p : BitVec 2) (t : BitVec 8) :
    step (s.withProgram (colortile sh p t)) =
      .next ((sizedForTile s).setPending ((HostLine.command (tileColorize sh p t)).event :: s.pending)) := by
  have hlow : (sizeWord 8 8).extractLsb' 0 16 = 0x0808 := by decide
  rw [step_write_czSize (v := sizeWord 8 8) (rest := (HostLine.command (tileColorize sh p t)).event :: s.pending) rfl,
    hlow]
  rfl

/-- COLORTILE's two accesses are the write to CZ_SIZE and the COLORIZE of the tile's region (R61). -/
theorem core_run_colortile {s u : State} {sh : SheetSel} {p : BitVec 2} {t : BitVec 8}
    (hu : exec (tileColorize sh p t) (sizedForTile s) = .next u) :
    core.run 2 (s.withProgram (colortile sh p t)) = .next u := by
  have hcolor : step ((sizedForTile s).setPending ((HostLine.command (tileColorize sh p t)).event :: s.pending)) =
      .next u := (step_command rfl (decode_encode_colorize sh p _ _)).trans hu
  rw [core_run_succ 1 (step_colortile s sh p t), core_run_succ 0 hcolor]
  rfl

end Machine
end Sys2Proof

open Sys2Proof Sys2Proof.Machine

/-- Settles O55: the COLORIZE starts with CZ_SIZE at 8x8, which at the corner of any tile is a legal region, and packs
that region with stride 8. -/
theorem colortileColorsOneTile : Obligations.ColortileColorsOneTile := by
  intro s sh p t
  have hlegal : regionLegal (sizedForTile s).czSize (.ofNat 7 (tileRow t.toNat)) (.ofNat 7 (tileCol t.toNat)) = true :=
    regionLegal_tile t
  obtain ⟨hheight, hwidth⟩ : czHeight (sizedForTile s).czSize = 8 ∧ czWidth (sizedForTile s).czSize = 8 :=
    czSize_tile
  obtain ⟨u, hu⟩ : ∃ u, exec (tileColorize sh p t) (sizedForTile s) = .next u :=
    ⟨_, exec_colorize_legal hlegal sh p⟩
  refine ⟨u, core_run_colortile hu, ?_, fun y x hy hx => ?_⟩
  · rw [exec_colorize_frame hlegal hu]
    rfl
  · have hword := rgbWord_exec_colorize hlegal hu (hheight ▸ hy) (hwidth ▸ hx)
    rw [hwidth, (toNat_ofNat_tile t).1, (toNat_ofNat_tile t).2] at hword
    rw [Nat.mul_comm 8 y]
    exact hword
end

section
/-! ### What a command and a step can change: one inversion lemma for each, and the statements that follow from them -/

namespace Sys2Proof.Machine

/-! ### Events at the port -/

/-- What a read returns does not depend on the events to come (R44). -/
theorem hostRead_setPending (target : Target) (s : State) (q : List HostEvent) :
    hostRead target (s.setPending q) = hostRead target s := by
  cases target <;> rfl

/-- A read completes, and only what the host receives and the events to come change (R44). -/
theorem step_read {s : State} {off : Offset} {n : Nat} {rest : List HostEvent} (h : s.pending = .memRead off n :: rest) :
    step s = .next (answered s rest (hostRead (target off n) s)) := by
  rw [step_event h, perform, hostRead_setPending]
  rfl

theorem step_write {s : State} {off : Offset} {n : Nat} {v : Word} {rest : List HostEvent}
    (h : s.pending = .memWrite off n v :: rest) : step s = hostWrite (target off n) v (s.setPending rest) :=
  step_event h

/-- A write to CMD completes, and runs its word as a command (R38). -/
theorem step_write_cmd {s : State} {w : Word} {rest : List HostEvent} (h : s.pending = .memWrite 0x000 4 w :: rest) :
    step s = runCommand w (answered s rest .done) := by
  rw [step_write h, target_cmd]
  rfl

theorem step_write_status {s : State} {v : Word} {rest : List HostEvent} (h : s.pending = .memWrite 0x004 4 v :: rest) :
    step s = .next (clearStatus v (answered s rest .done)) := by
  rw [step_write h, target_status]
  rfl

theorem step_write_chrLen {s : State} {v : Word} {rest : List HostEvent} (h : s.pending = .memWrite 0x008 4 v :: rest) :
    step s = .next ((answered s rest .done).setChrLen (v.extractLsb' 0 14)) := by
  rw [step_write h, target_chrLen]
  rfl

theorem step_write_result {s : State} {v : Word} {rest : List HostEvent} (h : s.pending = .memWrite 0x00C 4 v :: rest) :
    step s = .next (answered s rest .done) := by
  rw [step_write h, target_result]
  rfl

/-- W and H of a CZ_SIZE written from a word are the word's two low bytes (R27). -/
theorem czSize_fields_of_word (v : Word) :
    czWidth (v.extractLsb' 0 16) = (v.extractLsb' 0 8).toNat ∧
      czHeight (v.extractLsb' 0 16) = (v.extractLsb' 8 8).toNat := by
  unfold czWidth czHeight
  constructor
  all_goals
    congr 1
    apply BitVec.eq_of_getLsbD_eq
    intro k hk
    simp [BitVec.getLsbD_extractLsb', hk, -BitVec.getLsbD_eq_getElem]

/-! ### Commands -/

/-- The change a command word that ends in no error can make: to one of the five pieces of state that commands write,
and only by the commands that write that piece (R63 to R80). A memory it writes is in canonical form when the memories
were. -/
inductive CommandEffect (w : Word) (s : State) : State → Prop
  | sheet (m : Store 2)
      (writer : decode w = .ok .decode ∨ decode w = .ok .zerosh ∨ ∃ sh row col k, decode w = .ok (.setpix sh row col k))
      (canonical : Memory.wf s = true → Memory.wf (s.setSheet m) = true) : CommandEffect w s (s.setSheet m)
  | chrbuf (m : List Host.Cell) (writer : decode w = .ok .encode)
      (canonical : Memory.wf s = true → Memory.wf (s.setChrbuf m) = true) :
      CommandEffect w s ((s.setChrbuf m).setChrLen 8192)
  | subpal (v : Vector (Vector MasterIndex 4) 4) (writer : ∃ p k mi, decode w = .ok (.setpal p k mi)) :
      CommandEffect w s (s.setSubpal v)
  | result (v : Word)
      (writer : (∃ sh row col, decode w = .ok (.getpix sh row col)) ∨ (∃ p, decode w = .ok (.getpal p)) ∨
        (∃ mi, decode w = .ok (.getmst mi)) ∨ ∃ p k, decode w = .ok (.lookup p k)) :
      CommandEffect w s (s.setResult v)
  | rgbbuf (m : Store 32)
      (writer : ∃ sh p row col, decode w = .ok (.colorize sh p row col) ∧ regionLegal s.czSize row col = true)
      (canonical : Memory.wf s = true → Memory.wf (s.setRgbbuf m) = true) : CommandEffect w s (s.setRgbbuf m)

/-- The two ways a command word can end, by the error `commandError` gives for it. -/
inductive CommandOutcome (w : Word) (s : State) : Prop
  | failed (e : CmdError) (error : commandError s.czSize w = some e) (run : runCommand w s = .next (raiseCmdError e s))
  | succeeded (t : State) (noError : commandError s.czSize w = none) (run : runCommand w s = .next t)
      (effect : CommandEffect w s t)

/-- A legal region has no more pixels than RGBBUF has words (R20, R81). -/
theorem regionSize_le {sz : BitVec 16} {row col : BitVec 7} (h : regionLegal sz row col = true) :
    czHeight sz * czWidth sz ≤ 16384 := by
  obtain ⟨⟨-, hheight⟩, ⟨-, hwidth⟩, -, -⟩ := regionLegal_iff.mp h
  exact Nat.mul_le_mul hheight hwidth

/-- Every command word fails or succeeds, and what it does then. -/
theorem command_outcome (w : Word) (s : State) : CommandOutcome w s := by
  cases hd : decode w with
  | error e => exact .failed e (by simp [commandError, hd]) (runCommand_error hd s)
  | ok i =>
    have hrun : runCommand w s = exec i s := runCommand_ok hd s
    cases i with
    | decode =>
      exact .succeeded _ (by simp [commandError, hd]) (hrun.trans (exec_decode s))
        (.sheet _ (.inl hd) fun h => Memory.wf_setSheets h _)
    | encode =>
      exact .succeeded _ (by simp [commandError, hd]) (hrun.trans (exec_encode s))
        (.chrbuf _ hd fun h => Memory.wf_setAllChr h _)
    | zerosh =>
      exact .succeeded _ (by simp [commandError, hd]) (hrun.trans (exec_zerosh s))
        (.sheet _ (.inr (.inl hd)) Memory.wf_setSheet_nil)
    | setpix sh row col k =>
      exact .succeeded _ (by simp [commandError, hd]) (hrun.trans (exec_setpix sh row col k s))
        (.sheet _ (.inr (.inr ⟨_, _, _, _, hd⟩)) fun h => Memory.wf_setPixel h row.isLt col.isLt k)
    | getpix sh row col =>
      exact .succeeded _ (by simp [commandError, hd]) (hrun.trans (exec_getpix sh row col s))
        (.result _ (.inl ⟨_, _, _, hd⟩))
    | setpal p k mi =>
      exact .succeeded _ (by simp [commandError, hd]) (hrun.trans (exec_setpal p k mi s)) (.subpal _ ⟨_, _, _, hd⟩)
    | getpal p =>
      exact .succeeded _ (by simp [commandError, hd]) (hrun.trans (exec_getpal p s)) (.result _ (.inr (.inl ⟨_, hd⟩)))
    | getmst mi =>
      exact .succeeded _ (by simp [commandError, hd]) (hrun.trans (exec_getmst mi s))
        (.result _ (.inr (.inr (.inl ⟨_, hd⟩))))
    | lookup p k =>
      exact .succeeded _ (by simp [commandError, hd]) (hrun.trans (exec_lookup p k s))
        (.result _ (.inr (.inr (.inr ⟨_, _, hd⟩))))
    | colorize sh p row col =>
      cases hregion : regionLegal s.czSize row col with
      | false =>
        exact .failed .badRegion (by simp [commandError, hd, hregion])
          (hrun.trans (exec_colorize_illegal hregion sh p))
      | true =>
        exact .succeeded _ (by simp [commandError, hd, hregion]) (hrun.trans (exec_colorize_legal hregion sh p))
          (.rgbbuf _ ⟨_, _, _, _, hd, hregion⟩ fun h => Memory.wf_fillRgb h (regionSize_le hregion) _)

/-- A command that succeeds leaves STATUS, CZ_SIZE and the port as they were (R85). -/
theorem CommandEffect.frame {w : Word} {s t : State} (effect : CommandEffect w s t) :
    t.err = s.err ∧ t.errcode = s.errcode ∧ t.czSize = s.czSize ∧ t.pending = s.pending := by
  cases effect <;> exact ⟨rfl, rfl, rfl, rfl⟩

/-! ### Steps -/

/-- Everything a step can do to the state, with the event that makes it do so. -/
inductive StepEffect (s : State) : State → Prop
  | idle : StepEffect s s
  | portOnly (rest : List HostEvent) (r : Response) : StepEffect s (answered s rest r)
  | reset (rest : List HostEvent) (next : NextIsReset s) : StepEffect s (resetState (s.setPending rest))
  | command {w : Word} {rest : List HostEvent} {t : State} (next : NextIsCommand s w)
      (effect : CommandEffect w (answered s rest .done) t) : StepEffect s t
  | failed {w : Word} (rest : List HostEvent) {e : CmdError} (next : NextIsCommand s w)
      (error : commandError s.czSize w = some e) : StepEffect s (raiseCmdError e (answered s rest .done))
  | statusCleared {v : Word} (rest : List HostEvent) (next : NextIsWrite s 0x004 v) (bit : v.getLsbD 0 = true) :
      StepEffect s ((answered s rest .done).setStatus false 0)
  | chrLen (rest : List HostEvent) (len : BitVec 14) : StepEffect s ((answered s rest .done).setChrLen len)
  | czSize (rest : List HostEvent) (sz : BitVec 16) : StepEffect s ((answered s rest .done).setCzSize sz)
  | chrWord {off : Offset} {v : Word} {j : Nat} (rest : List HostEvent) (next : NextIsWrite s off v)
      (inside : j + 3 < 8192) (place : off.toNat = 0x02000 + j) :
      StepEffect s (storeChrWord j v (answered s rest .done))
  | rgbWord {off : Offset} {v : Word} {i : Nat} (rest : List HostEvent) (next : NextIsWrite s off v)
      (inside : i < 16384) (place : off.toNat = 0x10000 + 4 * i) :
      StepEffect s ((answered s rest .done).setRgbWord i v)

/-- A write to CMD does what its word's outcome says. -/
theorem runCommand_effect {s t : State} {w : Word} {rest : List HostEvent} (next : NextIsCommand s w)
    (h : runCommand w (answered s rest .done) = .next t) : StepEffect s t := by
  cases command_outcome w (answered s rest .done) with
  | failed e error run =>
    obtain rfl := Host.Outcome.next.inj (run.symm.trans h)
    exact .failed rest next error
  | succeeded u _ run effect =>
    obtain rfl := Host.Outcome.next.inj (run.symm.trans h)
    exact .command next effect

/-- A write does what the address map of R34 says of its target. -/
theorem hostWrite_effect {s t : State} {off : Offset} {n : Nat} {v : Word} {rest : List HostEvent} {reached : Target}
    (hp : s.pending = .memWrite off n v :: rest) (htarget : target off n = reached)
    (h : hostWrite reached v (s.setPending rest) = .next t) : StepEffect s t := by
  have hnext : n = 4 → NextIsWrite s off v := by
    rintro rfl
    simp [NextIsWrite, hp]
  cases reached with
  | cmd =>
    obtain ⟨rfl, hn⟩ := target_eq_cmd htarget
    exact runCommand_effect (hnext hn) h
  | status =>
    obtain ⟨rfl, hn⟩ := target_eq_status htarget
    obtain rfl := Host.Outcome.next.inj h
    cases hbit : v.getLsbD 0 with
    | false =>
      rw [clearStatus_eq, if_neg (ne_true_of_eq_false hbit)]
      exact .portOnly rest .done
    | true =>
      rw [clearStatus_eq, if_pos hbit]
      exact .statusCleared rest (hnext hn) hbit
  | chrLen =>
    obtain rfl := Host.Outcome.next.inj h
    exact .chrLen rest _
  | result =>
    obtain rfl := Host.Outcome.next.inj h
    exact .portOnly rest .done
  | czSize =>
    obtain rfl := Host.Outcome.next.inj h
    exact .czSize rest _
  | chrWord j =>
    obtain ⟨hn, -, hinside, hplace⟩ := target_chrWord htarget
    obtain rfl := Host.Outcome.next.inj h
    exact .chrWord rest (hnext hn) hinside hplace
  | rgbWord i =>
    obtain ⟨hn, hinside, hplace⟩ := target_rgbWord htarget
    obtain rfl := Host.Outcome.next.inj h
    exact .rgbWord rest (hnext hn) hinside hplace
  | unsupported =>
    obtain rfl := Host.Outcome.next.inj h
    exact .portOnly rest .busError

theorem step_effect {s t : State} (h : step s = .next t) : StepEffect s t := by
  rcases step_cases h with ⟨-, rfl⟩ | ⟨rest, hp, rfl⟩ | ⟨off, n, rest, -, rfl⟩ | ⟨off, n, v, rest, hp, hwrite⟩
  · exact .idle
  · exact .reset rest (by simp [NextIsReset, hp])
  · exact .portOnly rest _
  · exact hostWrite_effect hp rfl hwrite

/-! ### The invariant -/

theorem inv_reset : Inv State.reset := ⟨Memory.wf_iff.mpr ⟨Store.wf_nil, Store.wf_nil, Store.wf_nil⟩, rfl⟩

/-- A command that succeeds keeps the invariant: it writes at most one memory, and STATUS never. -/
theorem CommandEffect.keeps_inv {w : Word} {s t : State} (effect : CommandEffect w s t) (hs : Inv s) : Inv t := by
  obtain ⟨hwf, hstatus⟩ := hs
  cases effect with
  | sheet m _ canonical => exact ⟨canonical hwf, hstatus⟩
  | chrbuf m _ canonical => exact ⟨canonical hwf, hstatus⟩
  | rgbbuf m _ canonical => exact ⟨canonical hwf, hstatus⟩
  | subpal v _ => exact ⟨hwf, hstatus⟩
  | result v _ => exact ⟨hwf, hstatus⟩

/-- The invariant does not speak of the model's own fields, which are all an answer to the host changes. -/
theorem inv_answered {s : State} (hs : Inv s) (rest : List HostEvent) (r : Response) : Inv (answered s rest r) := hs

theorem StepEffect.keeps_inv {s t : State} (effect : StepEffect s t) (hs : Inv s) : Inv t := by
  cases effect with
  | idle => exact hs
  | portOnly rest r => exact inv_answered hs rest r
  | reset rest _ => exact inv_reset
  | command _ effect => exact effect.keeps_inv (inv_answered hs _ _)
  | failed rest _ _ => exact ⟨hs.1, statusLegal_raise (s := answered s rest .done) hs.2 _⟩
  | statusCleared rest _ _ => exact ⟨hs.1, rfl⟩
  | chrLen rest len => exact inv_answered hs rest .done
  | czSize rest sz => exact inv_answered hs rest .done
  | chrWord rest _ inside _ => exact ⟨Memory.wf_storeChrWord (s := answered s rest .done) hs.1 inside _, hs.2⟩
  | rgbWord rest _ inside _ => exact ⟨Memory.wf_setRgbWord (s := answered s rest .done) hs.1 inside _, hs.2⟩

/-! ### Sequences of commands -/

/-- The state with an error raised, if there is one: what a sequence of commands that first fails with it leaves in
STATUS (R88, R89). -/
def raiseIfAny (e : Option CmdError) (s : State) : State := e.elim s (raiseCmdError · s)

/-- `t` holds in STATUS what `s` would after raising `e`, if any, and the same CZ_SIZE as `s`. -/
def Records (e : Option CmdError) (s t : State) : Prop :=
  t.err = (raiseIfAny e s).err ∧ t.errcode = (raiseIfAny e s).errcode ∧ t.czSize = s.czSize

theorem records_none (s : State) : Records none s s := ⟨rfl, rfl, rfl⟩

theorem Records.czSize {e : Option CmdError} {s t : State} (h : Records e s t) : t.czSize = s.czSize := h.2.2

/-- From a clear STATUS, ERR says whether there was an error and ERRCODE which one. -/
theorem Records.of_clear {e : Option CmdError} {s t : State} (h : Records e s t) (herr : s.err = false)
    (hcode : s.errcode = 0) : t.err = e.isSome ∧ t.errcode = (e.map errorCode).getD 0 := by
  obtain ⟨herr', hcode', -⟩ := h
  rw [herr', hcode']
  cases e with
  | none => exact ⟨herr, hcode⟩
  | some e => simp [raiseIfAny, raiseCmdError_eq, herr]

/-- Of two errors in a row the first is kept (R87). -/
theorem Records.trans {a b : Option CmdError} {s t u : State} (hst : Records a s t) (htu : Records b t u) :
    Records (a.or b) s u := by
  obtain ⟨herr, hcode, hsize⟩ := hst
  obtain ⟨herr', hcode', hsize'⟩ := htu
  refine ⟨?_, ?_, hsize'.trans hsize⟩
  · cases a <;> cases b <;> simp_all [raiseIfAny, raiseCmdError_eq]
  · cases a <;> cases b <;> simp_all [raiseIfAny, raiseCmdError_eq]

/-- A command write completes, and STATUS records its error, if any. -/
theorem step_command_records {s : State} {w : Word} {rest : List HostEvent}
    (h : s.pending = .memWrite 0x000 4 w :: rest) :
    ∃ t, step s = .next t ∧ t.pending = rest ∧ Records (commandError s.czSize w) s t := by
  rw [step_write_cmd h]
  cases command_outcome w (answered s rest .done) with
  | failed e error run =>
    refine ⟨_, run, rfl, ?_⟩
    rw [show commandError s.czSize w = some e from error]
    exact ⟨rfl, rfl, rfl⟩
  | succeeded t noError run effect =>
    obtain ⟨herr, hcode, hsize, hpending⟩ := effect.frame
    refine ⟨t, run, hpending, ?_⟩
    rw [show commandError s.czSize w = none from noError]
    exact ⟨herr, hcode, hsize⟩

theorem firstError_cons (sz : BitVec 16) (w : Word) (ws : List Word) :
    firstError sz (w :: ws) = (commandError sz w).or (firstError sz ws) := by
  cases h : commandError sz w <;> simp [firstError, h]

/-- A sequence of command writes completes, whatever comes after it, and STATUS records its first error, if any. -/
theorem core_run_commands (ws : List Word) (k : Nat) (rest : List HostEvent) {s : State}
    (h : s.pending = ws.map (.memWrite 0x000 4 ·) ++ rest) :
    ∃ t, core.run (ws.length + k) s = core.run k t ∧ t.pending = rest ∧ Records (firstError s.czSize ws) s t := by
  induction ws generalizing s with
  | nil => exact ⟨s, by rw [List.length_nil, Nat.zero_add], h, records_none s⟩
  | cons w ws ih =>
    obtain ⟨t, hstep, hpending, hst⟩ := step_command_records h
    obtain ⟨u, hrun, hrest, htu⟩ := ih hpending
    rw [hst.czSize] at htu
    refine ⟨u, ?_, hrest, firstError_cons .. ▸ hst.trans htu⟩
    rw [List.length_cons, Nat.add_right_comm, core_run_succ _ hstep, hrun]

/-- A write of 1 to STATUS clears ERR and ERRCODE (R24). -/
theorem step_clear {s : State} {rest : List HostEvent} (h : s.pending = .memWrite 0x004 4 1 :: rest) :
    ∃ t, step s = .next t ∧ t.pending = rest ∧ t.czSize = s.czSize ∧ t.err = false ∧ t.errcode = 0 := by
  refine ⟨_, step_write_status h, ?_⟩
  rw [clearStatus_eq, if_pos (by decide)]
  exact ⟨rfl, rfl, rfl, rfl⟩

theorem step_read_status {s : State} {rest : List HostEvent} (h : s.pending = .memRead 0x004 4 :: rest) :
    ∃ t, step s = .next t ∧ t.pending = rest ∧ t.response = some (.data (statusWord s.err s.errcode)) := by
  refine ⟨_, step_read h, rfl, ?_⟩
  rw [target_status]
  rfl

theorem statusWord_false_zero : statusWord false 0 = 0x00000000 := by decide

/-- ERR and ERRCODE in a STATUS read that reports an error (R33). -/
theorem statusWord_true : ∀ code : BitVec 4,
    (statusWord true code).getLsbD 0 = true ∧ (statusWord true code).extractLsb' 4 4 = code := by decide

end Sys2Proof.Machine

open Sys2Proof Sys2Proof.Machine

/-- Settles O28, from what a step can do: every write to a memory keeps its form, and STATUS takes only the values of
reset, of a clear, and of a raised error. -/
theorem stepKeepsTheInvariant : Obligations.StepKeepsTheInvariant :=
  fun _ _ hs hstep => (step_effect hstep).keeps_inv hs

/-- Settles O10, from the two ways a command word can end. -/
theorem statusIsTouchedOnlyByRaisingTheError : Obligations.StatusIsTouchedOnlyByRaisingTheError := by
  intro s rest w h
  rw [step_write_cmd h]
  cases command_outcome w (answered s rest .done) with
  | failed e error run =>
    refine ⟨fun e' error' => ?_, fun noError => ?_⟩
    · rw [run, Option.some.inj (error.symm.trans error')]
    · exact absurd (error.symm.trans noError) (by simp)
  | succeeded t noError run effect =>
    obtain ⟨herr, hcode, -, -⟩ := effect.frame
    exact ⟨fun e error => absurd (noError.symm.trans error) (by simp), fun _ => ⟨t, run, herr, hcode⟩⟩

/-- Settles O29: every other effect of a step leaves SHEET as it was. -/
theorem sheetChangesOnlyByItsWriters : Obligations.SheetChangesOnlyByItsWriters := by
  intro s t hstep changed
  cases step_effect hstep with
  | reset rest next => exact .inl next
  | command next effect =>
    cases effect with
    | sheet m writer _ => exact .inr ⟨_, next, writer⟩
    | _ => exact absurd rfl changed
  | _ => exact absurd rfl changed

/-- Settles O30: every other effect of a step leaves SUBPAL as it was. -/
theorem subpalChangesOnlyBySetpalOrReset : Obligations.SubpalChangesOnlyBySetpalOrReset := by
  intro s t hstep changed
  cases step_effect hstep with
  | reset rest next => exact .inl next
  | command next effect =>
    cases effect with
    | subpal v writer =>
      obtain ⟨p, k, mi, hd⟩ := writer
      exact .inr ⟨_, p, k, mi, next, hd⟩
    | _ => exact absurd rfl changed
  | _ => exact absurd rfl changed

/-- Settles O31: every other effect of a step leaves RESULT as it was. -/
theorem resultChangesOnlyByTheGets : Obligations.ResultChangesOnlyByTheGets := by
  intro s t hstep changed
  cases step_effect hstep with
  | reset rest next => exact .inl next
  | command next effect =>
    cases effect with
    | result v writer => exact .inr ⟨_, next, writer⟩
    | _ => exact absurd rfl changed
  | _ => exact absurd rfl changed

/-- Settles O32: every other effect of a step leaves CHRBUF as it was. -/
theorem chrbufChangesOnlyByItsWriters : Obligations.ChrbufChangesOnlyByItsWriters := by
  intro s t hstep changed
  cases step_effect hstep with
  | reset rest next => exact .inl next
  | command next effect =>
    cases effect with
    | chrbuf m writer _ => exact .inr (.inl ⟨_, next, writer⟩)
    | _ => exact absurd rfl changed
  | chrWord rest next inside place => exact .inr (.inr ⟨_, _, next, by omega, by omega⟩)
  | _ => exact absurd rfl changed

/-- Settles O33: every other effect of a step leaves RGBBUF as it was. -/
theorem rgbbufChangesOnlyByItsWriters : Obligations.RgbbufChangesOnlyByItsWriters := by
  intro s t hstep changed
  cases step_effect hstep with
  | reset rest next => exact .inl next
  | command next effect =>
    cases effect with
    | rgbbuf m writer _ =>
      obtain ⟨sh, p, row, col, hd, hregion⟩ := writer
      exact .inr (.inl ⟨_, sh, p, row, col, next, hd, hregion⟩)
    | _ => exact absurd rfl changed
  | rgbWord rest next inside place => exact .inr (.inr ⟨_, _, next, by omega⟩)
  | _ => exact absurd rfl changed

/-- Settles O34: of the effects of a step only a failed command sets ERR, and only reset and a write to STATUS clear
it. -/
theorem errIsStickyUntilCleared : Obligations.ErrIsStickyUntilCleared := by
  intro s t hstep
  have keeps : t.err = s.err →
      (s.err = false → t.err = true → ∃ w e, NextIsCommand s w ∧ commandError s.czSize w = some e) ∧
      (s.err = true → t.err = false → NextIsReset s ∨ ∃ v, NextIsWrite s 0x004 v ∧ v.getLsbD 0 = true) := by
    intro h
    rw [h]
    exact ⟨fun hf ht => by simp [hf] at ht, fun ht hf => by simp [ht] at hf⟩
  cases step_effect hstep with
  | reset rest next => exact ⟨fun _ ht => (by cases ht), fun _ _ => .inl next⟩
  | command next effect => exact keeps effect.frame.1
  | failed rest next error => exact ⟨fun _ _ => ⟨_, _, next, error⟩, fun _ hf => (by cases hf)⟩
  | statusCleared rest next bit => exact ⟨fun _ ht => (by cases ht), fun _ _ => .inr ⟨_, next, bit⟩⟩
  | _ => exact keeps rfl

/-- Settles O57, by induction on the sequence: after the clear STATUS records its first error, if any, and the read
returns that STATUS. -/
theorem statusReportsTheFirstFailure : Obligations.StatusReportsTheFirstFailure := by
  intro s ws rest h
  obtain ⟨c, hclear, hpending, hsize, herr, hcode⟩ := step_clear h
  obtain ⟨t, hrun, hpending, hrecords⟩ := core_run_commands ws 1 _ hpending
  obtain ⟨u, hread, hrest, hresponse⟩ := step_read_status hpending
  refine ⟨u, ((core_run_succ _ hclear).trans hrun).trans (core_run_succ 0 hread), hrest, ?_⟩
  obtain ⟨herr, hcode⟩ := hrecords.of_clear herr hcode
  rw [herr, hcode, hsize] at hresponse
  cases hfirst : firstError s.czSize ws with
  | none =>
    rw [hfirst] at hresponse
    exact hresponse.trans (congrArg (some <| Response.data ·) statusWord_false_zero)
  | some e =>
    rw [hfirst] at hresponse
    exact ⟨_, hresponse, statusWord_true (errorCode e)⟩

/-- Settles O8, from what an access to CMD does and the two answers of the decoder. -/
theorem stepRunsTheDecodedCommand : Obligations.StepRunsTheDecodedCommand := by
  intro s rest
  refine ⟨fun w h => ⟨fun i hd => ?_, fun e hd => ?_⟩, fun h => ?_⟩
  · rw [step_write_cmd h, runCommand_ok hd]
  · rw [step_write_cmd h, runCommand_error hd]
  · rw [step_read h, target_cmd]
    rfl

/-- Settles O12, from what a write to STATUS does. -/
theorem statusWriteClearsOnBitZero : Obligations.StatusWriteClearsOnBitZero := by
  intro s rest v h
  rw [step_write_status h, clearStatus_eq]
  exact ⟨fun hbit => by rw [if_pos hbit], fun hbit => by rw [if_neg (ne_true_of_eq_false hbit)]⟩

/-- Settles O13, from the address of each register. -/
theorem registerReadsReturnTheFields : Obligations.RegisterReadsReturnTheFields := by
  intro s rest
  refine ⟨fun h => ?_, fun h => ?_, fun h => ?_, fun h => ?_, fun h => ?_⟩
  · rw [step_read h, target_status]
    rfl
  · rw [step_read h, target_chrLen]
    rfl
  · rw [step_read h, target_czSize]
    rfl
  · rw [step_read h, target_result]
    rfl
  · rw [step_read h, target_cmd]
    rfl

/-- Settles O14, from what the write of each register does. -/
theorem registerWritesStoreTheFields : Obligations.RegisterWritesStoreTheFields := by
  intro s rest v
  refine ⟨step_write_chrLen, step_write_result, fun h => ⟨_, step_write_czSize h, rfl, ?_⟩⟩
  exact czSize_fields_of_word v

/-- Settles O27: at reset no memory lists a cell. -/
theorem resetMeetsTheInvariant : Obligations.ResetMeetsTheInvariant := inv_reset

/-- Settles O49: the RGB word of a colour is its zero-extension (R31). -/
theorem getmstReadsTheMasterColor : Obligations.GetmstReadsTheMasterColor :=
  fun s mi => exec_getmst mi s

/-- Settles O51: Colorize(p, k) is the master colour of the sub-palette's entry (R79). -/
theorem lookupIsTheTwoStageTable : Obligations.LookupIsTheTwoStageTable :=
  fun s p k => exec_lookup p k s

end

section
/-! ### Host accesses: what an access to each range of offsets reaches, and what it does there (R34 to R44) -/

namespace Sys2Proof.Machine

/-! ### The address map, range by range (R34) -/

/-- The accesses that reach nothing: those of R41 and those of R43. -/
theorem target_unsupported_iff {off : Offset} {n : Nat} :
    target off n = .unsupported ↔
      (n ≠ 4 ∨ off.toNat % 4 ≠ 0) ∨
        (0x00014 ≤ off.toNat ∧ off.toNat ≤ 0x01FFF) ∨ (0x04000 ≤ off.toNat ∧ off.toNat ≤ 0x0FFFF) := by
  unfold target
  dsimp only
  split_ifs <;> simp only [true_iff, false_iff] <;> omega

/-- Above the registers and the reserved range behind them an aligned word access reaches one of the two windows, or the
reserved range between them (R34). -/
theorem target_of_window {off : Offset} (hlow : 0x02000 ≤ off.toNat) (haligned : off.toNat % 4 = 0) :
    target off 4 = if off.toNat < 0x04000 then .chrWord (off.toNat - 0x02000)
      else if off.toNat < 0x10000 then .unsupported else .rgbWord ((off.toNat - 0x10000) / 4) := by
  unfold target
  dsimp only
  iterate 7 rw [if_neg (by omega)]

/-- An aligned word access in the CHRBUF window reaches the bytes from its place in the window on (R36). -/
theorem target_of_chrbuf {off : Offset} (hlow : 0x02000 ≤ off.toNat) (hhigh : off.toNat ≤ 0x03FFC)
    (haligned : off.toNat % 4 = 0) : target off 4 = .chrWord (off.toNat - 0x02000) := by
  rw [target_of_window hlow haligned, if_pos (by omega)]

/-- An aligned word access in the RGBBUF window reaches the word at its place in the window (R39). -/
theorem target_of_rgbbuf {off : Offset} (hlow : 0x10000 ≤ off.toNat) (haligned : off.toNat % 4 = 0) :
    target off 4 = .rgbWord ((off.toNat - 0x10000) / 4) := by
  rw [target_of_window (by omega) haligned, if_neg (by omega), if_neg (by omega)]

/-! ### Accesses that reach nothing (R42) -/

/-- A read that reaches nothing is a bus error and changes nothing. -/
theorem step_read_unsupported {s : State} {off : Offset} {n : Nat} {rest : List HostEvent}
    (hp : s.pending = .memRead off n :: rest) (htarget : target off n = .unsupported) :
    step s = .next (answered s rest .busError) := by
  rw [step_read hp, htarget]
  rfl

/-- A write that reaches nothing is a bus error and changes nothing. -/
theorem step_write_unsupported {s : State} {off : Offset} {n : Nat} {v : Word} {rest : List HostEvent}
    (hp : s.pending = .memWrite off n v :: rest) (htarget : target off n = .unsupported) :
    step s = .next (answered s rest .busError) := by
  rw [step_write hp, htarget]
  rfl

/-! ### The two windows -/

theorem step_read_chrWord {s : State} {off : Offset} {n j : Nat} {rest : List HostEvent}
    (hp : s.pending = .memRead off n :: rest) (htarget : target off n = .chrWord j) :
    step s = .next (answered s rest
      (.data (s.chrByte (j + 3) ++ s.chrByte (j + 2) ++ s.chrByte (j + 1) ++ s.chrByte j))) := by
  rw [step_read hp, htarget]
  rfl

theorem step_write_chrWord {s : State} {off : Offset} {n j : Nat} {v : Word} {rest : List HostEvent}
    (hp : s.pending = .memWrite off n v :: rest) (htarget : target off n = .chrWord j) :
    step s = .next (storeChrWord j v (answered s rest .done)) := by
  rw [step_write hp, htarget]
  rfl

theorem step_read_rgbWord {s : State} {off : Offset} {n i : Nat} {rest : List HostEvent}
    (hp : s.pending = .memRead off n :: rest) (htarget : target off n = .rgbWord i) :
    step s = .next (answered s rest (.data (s.rgbWord i))) := by
  rw [step_read hp, htarget]
  rfl

theorem step_write_rgbWord {s : State} {off : Offset} {n i : Nat} {v : Word} {rest : List HostEvent}
    (hp : s.pending = .memWrite off n v :: rest) (htarget : target off n = .rgbWord i) :
    step s = .next ((answered s rest .done).setRgbWord i v) := by
  rw [step_write hp, htarget]
  rfl

/-- The bytes of the word that a read of CHRBUF returns (R36). -/
theorem extractLsb'_chrWord (s : State) (j : Nat) {b : Nat} (hb : b < 4) :
    (s.chrByte (j + 3) ++ s.chrByte (j + 2) ++ s.chrByte (j + 1) ++ s.chrByte j : Word).extractLsb' (8 * b) 8 =
      s.chrByte (j + b) := by
  obtain ⟨h0, h1, h2, h3⟩ :=
    extract_wordOfBytes (s.chrByte j) (s.chrByte (j + 1)) (s.chrByte (j + 2)) (s.chrByte (j + 3))
  interval_cases b
  exacts [h0, h1, h2, h3]

/-- The bytes of the stored word, in their four places (R37). -/
theorem chrByte_storeChrWord_inside (j : Nat) (v : Word) (s : State) {b : Nat} (hb : b < 4) :
    (storeChrWord j v s).chrByte (j + b) = v.extractLsb' (8 * b) 8 := by
  rw [chrByte_storeChrWord]
  interval_cases b <;> simp

/-- Every byte outside the four places is kept (R37). -/
theorem chrByte_storeChrWord_outside {j : Nat} (v : Word) (s : State) {k : Nat} (hk : k < j ∨ j + 3 < k) :
    (storeChrWord j v s).chrByte k = s.chrByte k := by
  rw [chrByte_storeChrWord, if_neg (by omega), if_neg (by omega), if_neg (by omega), if_neg (by omega)]

/-! ### Reads (R44) -/

/-- What a read returns does not depend on what the host received before, or on the events to come. -/
theorem hostRead_answered (reached : Target) (s : State) (rest : List HostEvent) (r : Response) :
    hostRead reached (answered s rest r) = hostRead reached s := by
  cases reached <;> rfl

/-! ### Every step completes (R83, R105) -/

theorem runCommand_completes (w : Word) (s : State) : ∃ t, runCommand w s = .next t ∧ t.pending = s.pending := by
  cases command_outcome w s with
  | failed e _ run => exact ⟨_, run, rfl⟩
  | succeeded t _ run effect =>
    obtain ⟨-, -, -, hpending⟩ := effect.frame
    exact ⟨t, run, hpending⟩

theorem clearStatus_pending (v : Word) (s : State) : (clearStatus v s).pending = s.pending := by
  rw [clearStatus_eq]
  split <;> rfl

/-- A write completes whatever it reaches, and takes no event of its own. -/
theorem hostWrite_completes (reached : Target) (v : Word) (s : State) :
    ∃ t, hostWrite reached v s = .next t ∧ t.pending = s.pending := by
  cases reached with
  | cmd => exact runCommand_completes v (s.setResponse (some .done))
  | status => exact ⟨_, rfl, clearStatus_pending v (s.setResponse (some .done))⟩
  | _ => exact ⟨_, rfl, rfl⟩

theorem perform_completes (e : HostEvent) (s : State) : ∃ t, perform e s = .next t ∧ t.pending = s.pending := by
  cases e with
  | memRead off n => exact ⟨_, rfl, rfl⟩
  | memWrite off n v => exact hostWrite_completes (target off n) v s
  | reset => exact ⟨_, rfl, rfl⟩

/-! ### The window (R34) -/

theorem base_aligned : Config.base % 0x20000 = 0 := Nat.mul_mod_right ..

/-- A host address reaches an offset exactly when it is BASE plus that offset: the window is no longer than the offsets
go, so none wraps. -/
theorem windowOffset_eq_some_iff {addr : Nat} {off : Offset} :
    windowOffset addr = some off ↔ addr = Config.base + off.toNat := by
  have hoff := off.isLt
  unfold windowOffset
  rw [Option.ite_none_right_eq_some, Option.some.injEq, ← BitVec.toNat_inj, BitVec.toNat_ofNat, Config.windowBytes]
  omega

end Sys2Proof.Machine

open Sys2Proof Sys2Proof.Machine

/-- Settles O17: the read reaches the word of CHRBUF at its place in the window, and each byte of the answer is the byte
with that number. -/
theorem chrbufReadIsLittleEndian : Obligations.ChrbufReadIsLittleEndian := by
  intro s rest off hlow hhigh haligned hp
  exact ⟨_, step_read_chrWord hp (target_of_chrbuf hlow hhigh haligned), fun b hb => extractLsb'_chrWord s _ hb⟩

/-- Settles O18: the write is a word write at its place in the window. -/
theorem chrbufWriteIsLittleEndian : Obligations.ChrbufWriteIsLittleEndian := by
  intro s rest off v hlow hhigh haligned hp
  refine ⟨_, step_write_chrWord hp (target_of_chrbuf hlow hhigh haligned), storeChrWord_frame .., ?_, ?_⟩
  · exact fun b hb => chrByte_storeChrWord_inside _ v _ hb
  · exact fun k hk => chrByte_storeChrWord_outside v _ hk

/-- Settles O19: read and write reach the one word at the access's place in the window. -/
theorem rgbbufAccessIsOneWord : Obligations.RgbbufAccessIsOneWord := by
  intro s rest off hlow _ haligned
  have htarget := target_of_rgbbuf hlow haligned
  refine ⟨fun hp => step_read_rgbWord hp htarget, fun v hp => ?_⟩
  refine ⟨_, step_write_rgbWord hp htarget, rfl, ?_, fun i hi => ?_⟩
  · rw [State.rgbWord_setRgbWord, if_pos rfl]
  · rw [State.rgbWord_setRgbWord, if_neg hi]
    rfl

/-- Settles O20: a read leaves everything that a read depends on as it was. -/
theorem readsHaveNoSideEffect : Obligations.ReadsHaveNoSideEffect := by
  intro s rest off n hp
  refine ⟨_, step_read hp, ?_⟩
  rw [step_read rfl, hostRead_answered]
  rfl

/-- Settles O21, from the alignment of BASE and the length of the window. -/
theorem windowIsOneAlignedRange : Obligations.WindowIsOneAlignedRange :=
  ⟨base_aligned, fun _ _ => windowOffset_eq_some_iff⟩

/-- Settles O22: with an event pending the step performs it, and every event completes. -/
theorem everyStepTakesOneEvent : Obligations.EveryStepTakesOneEvent := by
  intro s
  cases hp : s.pending with
  | nil => exact ⟨s, step_idle hp, hp, fun _ => rfl⟩
  | cons e rest =>
    obtain ⟨t, hperform, hpending⟩ := perform_completes e (s.setPending rest)
    exact ⟨t, (step_event hp).trans hperform, hpending, fun h => nomatch h⟩

/-- Settles O15: such an access reaches nothing. -/
theorem unsupportedAccessIsBusError : Obligations.UnsupportedAccessIsBusError := by
  intro s rest off n h
  have htarget := target_unsupported_iff.mpr (.inl h)
  exact ⟨fun hp => step_read_unsupported hp htarget, fun v hp => step_write_unsupported hp htarget⟩

/-- Settles O16: a reserved offset reaches nothing, at any width. -/
theorem reservedOffsetIsBusError : Obligations.ReservedOffsetIsBusError := by
  intro s rest off n h
  have htarget := target_unsupported_iff (n := n).mpr (.inr h)
  exact ⟨fun hp => step_read_unsupported hp htarget, fun v hp => step_write_unsupported hp htarget⟩
end

section
/-! ### Commands run twice (R44): what each command writes depends on nothing that it writes -/

namespace Sys2Proof.Machine

/-! ### The same write twice -/

namespace Store

variable {w : Nat} (d : Option (BitVec w)) (m : Store w)

/-- A cell written twice with one value is that cell written once. -/
theorem put_put (k : Nat) (v : BitVec w) : put d (put d m k v) k v = put d m k v := by
  have hcell : ∀ p : Nat → Bool, p k = false → (cell d k v).filter (fun e => p e.1) = [] := fun p hp =>
    List.filter_eq_nil_iff.mpr fun e he => by simp [(mem_cell he).1, hp]
  have hlow := hcell (fun a => decide (a < k)) (by simp)
  have hhigh := hcell (fun a => decide (k < a)) (by simp)
  have hlowHigh : (m.filter fun e => e.1 < k).filter (fun e => k < e.1) = [] :=
    List.filter_eq_nil_iff.mpr fun e he => by
      simpa using (of_decide_eq_true (List.mem_filter.mp he).2).le
  have hhighLow : (m.filter fun e => k < e.1).filter (fun e => e.1 < k) = [] :=
    List.filter_eq_nil_iff.mpr fun e he => by
      simpa using (of_decide_eq_true (List.mem_filter.mp he).2).le
  simp only [put, List.filter_append, hlow, hhigh, hlowHigh, hhighLow, List.filter_filter, Bool.and_self,
    List.append_nil, List.nil_append]

/-- The first cells filled twice with one function are those cells filled once. -/
theorem fill_fill (n : Nat) (f : Nat → BitVec w) : fill d (fill d m n f) n f = fill d m n f := by
  have htab : (tabulate d n f).filter (fun e => n ≤ e.1) = [] :=
    List.filter_eq_nil_iff.mpr fun e he => by simpa using (mem_tabulate he).1
  simp only [fill, List.filter_append, htab, List.filter_filter, Bool.and_self, List.nil_append]

end Store

namespace State

variable (s : State)

theorem setPixel_setPixel (sh : SheetSel) (r c : Nat) (v : Pixel) :
    (s.setPixel sh r c v).setPixel sh r c v = s.setPixel sh r c v :=
  congrArg s.setSheet (Store.put_put ..)

theorem fillRgb_fillRgb (n : Nat) (f : Nat → Word) : (s.fillRgb n f).fillRgb n f = s.fillRgb n f :=
  congrArg s.setRgbbuf (Store.fill_fill ..)

theorem setSubpalEntry_setSubpalEntry (p k : BitVec 2) (v : MasterIndex) :
    (s.setSubpalEntry p k v).setSubpalEntry p k v = s.setSubpalEntry p k v := by
  simp [setSubpalEntry, setSubpal, Vector.get_eq_getElem, Vector.set_set]

end State

/-- An error raised twice is that error raised once: the second time ERR is 1, and the code is kept (R87). -/
theorem raiseCmdError_raiseCmdError (e : CmdError) (s : State) :
    raiseCmdError e (raiseCmdError e s) = raiseCmdError e s := rfl

/-! ### The same command twice -/

theorem exec_colorize_idempotent (sh : SheetSel) (p : BitVec 2) (row col : BitVec 7) {s t : State}
    (h : exec (.colorize sh p row col) s = .next t) : exec (.colorize sh p row col) t = .next t := by
  cases hregion : regionLegal s.czSize row col with
  | false =>
    rw [exec_colorize_illegal hregion] at h
    obtain rfl := Host.Outcome.next.inj h
    exact exec_colorize_illegal (s := raiseCmdError .badRegion s) hregion sh p
  | true =>
    rw [exec_colorize_legal hregion] at h
    obtain rfl := Host.Outcome.next.inj h
    exact (exec_colorize_legal (s := s.fillRgb _ _) hregion sh p).trans
      (congrArg Host.Outcome.next (State.fillRgb_fillRgb ..))

/-- What a command puts in a memory, a table or a register depends on nothing that the command writes, so that a second
run writes the same again (R44). -/
theorem exec_idempotent {i : Instr} {s t : State} (h : exec i s = .next t) : exec i t = .next t := by
  cases i with
  | setpix sh row col k =>
    obtain rfl := Host.Outcome.next.inj h
    exact congrArg Host.Outcome.next (State.setPixel_setPixel ..)
  | setpal p k mi =>
    obtain rfl := Host.Outcome.next.inj h
    exact congrArg Host.Outcome.next (State.setSubpalEntry_setSubpalEntry ..)
  | colorize sh p row col => exact exec_colorize_idempotent sh p row col h
  | _ =>
    obtain rfl := Host.Outcome.next.inj h
    rfl

end Sys2Proof.Machine

open Sys2Proof Sys2Proof.Machine

/-- Settles O56: a word that decodes runs an idempotent command, and one that does not raises its one error again. -/
theorem commandsAreIdempotent : Obligations.CommandsAreIdempotent := by
  intro w s t h
  cases hd : decode w with
  | ok i =>
    rw [runCommand_ok hd] at h ⊢
    exact exec_idempotent h
  | error e =>
    rw [runCommand_error hd] at h ⊢
    obtain rfl := Host.Outcome.next.inj h
    rw [raiseCmdError_raiseCmdError]
end

section
/-! ### The encoding (R52 to R59): every command belongs to one row of the opcode table, and a word is that command
exactly when it meets the row's match and mask -/

namespace Sys2Proof

/-! ### Fields in a command word -/

/-- The bits of a word where a field was put are the field (R59). -/
theorem extractLsb'_place_self {n : Nat} (v : BitVec n) {lo : Nat} (h : lo + n ≤ 32) :
    (place v lo).extractLsb' lo n = v := by
  apply BitVec.eq_of_getLsbD_eq
  intro k hk
  have hword : lo + k < 32 := by omega
  simp [BitVec.getLsbD_extractLsb', getLsbD_place, hk, hword, -BitVec.getLsbD_eq_getElem]

/-- A field put beside a range of bits leaves them 0 (R59). -/
theorem extractLsb'_place_of_disjoint {n : Nat} (v : BitVec n) {lo start len : Nat}
    (h : lo + n ≤ start ∨ start + len ≤ lo) : (place v lo).extractLsb' start len = 0 := by
  apply BitVec.eq_of_getLsbD_eq
  intro k hk
  rw [BitVec.getLsbD_extractLsb', getLsbD_place]
  obtain h | h := h
  · simp [BitVec.getLsbD_of_ge v (start + k - lo) (by omega)]
  · simp [show start + k < lo by omega]

/-- S names the sheet whose bit stands in w[4] (R52). -/
theorem fieldS_eq_iff {w : Word} {s : SheetSel} : fieldS w = s ↔ w.extractLsb' 4 1 = s.toBit := by
  rw [← toBit_fieldS]
  cases fieldS w <;> cases s <;> decide

/-! ### The rows of the opcode table -/

/-- The row of the opcode table that a command belongs to (R53). -/
def Instr.row : Instr → OpRow
  | .decode => opcodeTable[0]
  | .encode => opcodeTable[1]
  | .zerosh => opcodeTable[2]
  | .setpix .. => opcodeTable[3]
  | .getpix .. => opcodeTable[4]
  | .setpal .. => opcodeTable[5]
  | .getpal .. => opcodeTable[6]
  | .getmst .. => opcodeTable[7]
  | .lookup .. => opcodeTable[8]
  | .colorize .. => opcodeTable[9]

theorem row_mem (i : Instr) : i.row ∈ opcodeTable := by
  cases i <;> exact List.getElem_mem _

/-- The row of the command that a row makes is that row: the ten rows make ten different commands (R53). -/
theorem row_build (w : Word) : ∀ r ∈ opcodeTable, (r.build w).row = r := by
  simp [opcodeTable, Instr.row]

/-- What the ten rows of R55 have in common: the match has no bit outside the mask, and the mask covers OP. -/
theorem row_fixed_bits : ∀ r ∈ opcodeTable, r.pattern &&& r.mask = r.pattern ∧
    r.mask.extractLsb' 0 4 = 0xF ∧ r.pattern.extractLsb' 0 4 = r.op := by decide

/-- The OPs with a row are 0x1 to 0xA (R53, R57). -/
theorem row_op_range : ∀ r ∈ opcodeTable, 0 < r.op.toNat ∧ r.op.toNat < 0xB := by decide

/-- No two rows have one OP (R53): a search by OP finds the row. -/
theorem find_row : ∀ r ∈ opcodeTable, opcodeTable.find? (fun r' => r'.op == r.op) = some r := by
  simp [opcodeTable]

/-- The fields of a command's encoding are its operands (R54, R59). -/
theorem build_encode (i : Instr) : i.row.build (encode i) = i := by
  cases i with
  | decode | encode | zerosh => rfl
  | _ =>
    simp [Instr.row, opcodeTable, encode, fieldS_eq_iff, fieldP, fieldROW, fieldCOL, fieldK, fieldMI,
      BitVec.extractLsb'_or, extractLsb'_place_self, extractLsb'_place_of_disjoint]

/-! ### The decoder, row by row -/

/-- A word whose OP has a row is that row's command or has a reserved bit set (R56, R58). -/
theorem decode_of_op {w : Word} {r : OpRow} (hr : r ∈ opcodeTable) (hop : fieldOP w = r.op) :
    decode w = if w &&& r.mask = r.pattern then .ok (r.build w) else .error .reservedBits := by
  rw [decode, hop, find_row r hr]

/-- A word whose OP has no row is an illegal OP (R57). -/
theorem decode_of_no_row {w : Word} (h : ∀ r ∈ opcodeTable, r.op ≠ fieldOP w) : decode w = .error .illegalOp := by
  rw [decode, List.find?_eq_none.mpr fun r hr => by simpa using h r hr]

theorem fieldOP_of_match {w : Word} {r : OpRow} (hr : r ∈ opcodeTable) (h : w &&& r.mask = r.pattern) :
    fieldOP w = r.op := by
  obtain ⟨-, hmask, hop⟩ := row_fixed_bits r hr
  rw [← hop, ← h, BitVec.extractLsb'_and, hmask]
  exact (BitVec.and_allOnes (x := fieldOP w)).symm

/-- A word that meets a row's match and mask is the row's command (R55). -/
theorem decode_of_match {w : Word} {r : OpRow} (hr : r ∈ opcodeTable) (h : w &&& r.mask = r.pattern) :
    decode w = .ok (r.build w) := by
  rw [decode_of_op hr (fieldOP_of_match hr h), if_pos h]

/-- A word is a command exactly when it meets the match and mask of the command's row, and the row makes the command
from its fields (R55, R56). -/
theorem decode_eq_ok_iff {w : Word} {i : Instr} :
    decode w = .ok i ↔ w &&& i.row.mask = i.row.pattern ∧ i.row.build w = i := by
  constructor
  · intro h
    unfold decode at h
    split at h
    · cases h
    next r hfind =>
      split at h
      next hmatch =>
        obtain rfl := Except.ok.inj h
        rw [row_build w r (List.mem_of_find?_eq_some hfind)]
        exact ⟨hmatch, rfl⟩
      · cases h
  · rintro ⟨hmatch, hbuild⟩
    rw [decode_of_match (row_mem i) hmatch, hbuild]

/-- The encoding of a command meets the match and mask of its row (R55, R59). -/
theorem encode_and_mask (i : Instr) : encode i &&& i.row.mask = i.row.pattern := by
  have h := encode_build (encode i) i.row (row_mem i)
  rw [build_encode] at h
  calc encode i &&& i.row.mask = (i.row.pattern ||| (encode i &&& ~~~i.row.mask)) &&& i.row.mask := by rw [← h]
    _ = i.row.pattern := by
      simp [BitVec.and_or_distrib_right, BitVec.and_assoc, (row_fixed_bits _ (row_mem i)).1]

/-! ### The assembler -/

theorem toNat_toBit_asmSheet {n : Nat} (h : n < 2) : (asmSheet n).toBit.toNat = n := by
  interval_cases n <;> rfl

/-- A line whose operands are in range is the line of its command (R59). -/
theorem line_toInstr {l : AsmLine} (h : l.wellFormed = true) : l.toInstr.line = l := by
  cases l with
  | decode | encode | zerosh => rfl
  | _ => simp_all [AsmLine.wellFormed, AsmLine.toInstr, Instr.line, toNat_toBit_asmSheet, Nat.mod_eq_of_lt]

end Sys2Proof

open Sys2Proof Sys2Proof.Machine

/-- Settles O1: the encoding meets its row's match and mask, and the row reads the operands back. -/
theorem decodeOfEncodeIsTheCommand : Obligations.DecodeOfEncodeIsTheCommand :=
  fun i => decode_eq_ok_iff.mpr ⟨encode_and_mask i, build_encode i⟩

/-- Settles O2: the word has the fixed bits of its row, and every other bit of it stands in an operand. -/
theorem encodeOfDecodeIsTheWord : Obligations.EncodeOfDecodeIsTheWord := by
  intro w i h
  obtain ⟨hmatch, hbuild⟩ := decode_eq_ok_iff.mp h
  calc encode i = encode (i.row.build w) := by rw [hbuild]
    _ = (w &&& i.row.mask) ||| (w &&& ~~~i.row.mask) := by rw [encode_build w _ (row_mem i), hmatch]
    _ = w := by rw [← BitVec.and_or_distrib_left, BitVec.or_not_self, BitVec.and_allOnes]

/-- Settles O3: a word that meets a row is the command of that row, and a decoded word meets its command's row. -/
theorem wordIsCommandWhenMaskMatches : Obligations.WordIsCommandWhenMaskMatches := by
  intro w
  have hword {i : Instr} (h : decode w = .ok i) : w &&& i.row.mask = i.row.pattern := (decode_eq_ok_iff.mp h).1
  have hdecode (n : Fin 10) (h : w &&& (opcodeTable.get n).mask = (opcodeTable.get n).pattern) :
      decode w = .ok ((opcodeTable.get n).build w) := decode_of_match (opcodeTable.get_mem n) h
  exact ⟨⟨hdecode 0, hword⟩, ⟨hdecode 1, hword⟩, ⟨hdecode 2, hword⟩,
    ⟨fun h => ⟨_, _, _, _, hdecode 3 h⟩, fun ⟨_, _, _, _, h⟩ => hword h⟩,
    ⟨fun h => ⟨_, _, _, hdecode 4 h⟩, fun ⟨_, _, _, h⟩ => hword h⟩,
    ⟨fun h => ⟨_, _, _, hdecode 5 h⟩, fun ⟨_, _, _, h⟩ => hword h⟩,
    ⟨fun h => ⟨_, hdecode 6 h⟩, fun ⟨_, h⟩ => hword h⟩,
    ⟨fun h => ⟨_, hdecode 7 h⟩, fun ⟨_, h⟩ => hword h⟩,
    ⟨fun h => ⟨_, _, hdecode 8 h⟩, fun ⟨_, _, h⟩ => hword h⟩,
    ⟨fun h => ⟨_, _, _, _, hdecode 9 h⟩, fun ⟨_, _, _, _, h⟩ => hword h⟩⟩

/-- Settles O4: the command is the one that its row makes of the word's fields. -/
theorem operandsAreTheFieldBits : Obligations.OperandsAreTheFieldBits := by
  intro w
  refine ⟨fun s row col k h => ?_, fun s row col h => ?_, fun p k mi h => ?_, fun p h => ?_, fun mi h => ?_,
    fun p k h => ?_, fun s p row col h => ?_⟩
  all_goals obtain ⟨-, hbuild⟩ := decode_eq_ok_iff.mp h
  · obtain ⟨rfl, rfl, rfl, rfl⟩ := Instr.setpix.inj hbuild
    exact ⟨toBit_fieldS w, rfl, rfl, rfl⟩
  · obtain ⟨rfl, rfl, rfl⟩ := Instr.getpix.inj hbuild
    exact ⟨toBit_fieldS w, rfl, rfl⟩
  · obtain ⟨rfl, rfl, rfl⟩ := Instr.setpal.inj hbuild
    exact ⟨rfl, rfl, rfl⟩
  · exact (Instr.getpal.inj hbuild).symm
  · exact (Instr.getmst.inj hbuild).symm
  · obtain ⟨rfl, rfl⟩ := Instr.lookup.inj hbuild
    exact ⟨rfl, rfl⟩
  · obtain ⟨rfl, rfl, rfl, rfl⟩ := Instr.colorize.inj hbuild
    exact ⟨toBit_fieldS w, rfl, rfl, rfl⟩

/-- Settles O5: an OP outside 0x1 to 0xA has no row, and any other OP has one, whose match decides. -/
theorem commandChecksInOrder : Obligations.CommandChecksInOrder := by
  intro w s
  refine ⟨fun hillegal => ?_, fun r hr hop => ⟨fun hreserved => ?_, fun hmatch => ?_⟩⟩
  · refine runCommand_error (decode_of_no_row fun r hr hop => ?_) s
    have hrange := row_op_range r hr
    rw [hop, fieldOP] at hrange
    omega
  · exact runCommand_error ((decode_of_op hr hop).trans (if_neg hreserved)) s
  · exact runCommand_ok (decode_of_match hr hmatch) s

/-- Settles O6: each word is the encoding of its command. -/
theorem specWordsDecode : Obligations.SpecWordsDecode :=
  ⟨decodeOfEncodeIsTheCommand .decode, decodeOfEncodeIsTheCommand .encode, decodeOfEncodeIsTheCommand .zerosh,
    decodeOfEncodeIsTheCommand (.setpix .B 3 5 2), decodeOfEncodeIsTheCommand (.getpix .B 3 5),
    decodeOfEncodeIsTheCommand (.setpal 2 1 42), decodeOfEncodeIsTheCommand (.getpal 2),
    decodeOfEncodeIsTheCommand (.getmst 63), decodeOfEncodeIsTheCommand (.lookup 2 1),
    decodeOfEncodeIsTheCommand (.colorize .B 3 120 120)⟩

/-- Settles O7: the word of an accepted line decodes to the line's command, whose line it is. -/
theorem assembledLineKeepsItsOperands : Obligations.AssembledLineKeepsItsOperands := by
  intro l
  refine ⟨?_, fun h => ⟨encode l.toInstr, l.toInstr, if_pos h, decodeOfEncodeIsTheCommand _, line_toInstr h⟩⟩
  simp [assemble]

/-- Settles O24: the lines of each pseudo-command are the lines of its definition, and the addresses those of R21. -/
theorem pseudoCommandsAreTheirAccesses : Obligations.PseudoCommandsAreTheirAccesses :=
  fun _ _ _ _ _ _ _ _ => ⟨rfl, rfl, rfl, rfl, rfl, rfl⟩
end

section
/-! ### The codec (R63 to R71): pixels and CHR bits stand one to one, and DECODE and ENCODE copy each bit one way -/

namespace Sys2Proof.Machine

/-! ### Every bit of CHRBUF belongs to one pixel (R65) -/

/-- The two bytes of the pixel at row y and column x of tile g (R63, R65). -/
theorem planeBytes_tile {g y x : Nat} (hg : g < 512) (hy : y < 8) (hx : x < 8) :
    plane0Byte (sheetOf (g / 256)) (tileRow (g % 256) + y) (tileCol (g % 256) + x) = 16 * g + y ∧
      plane1Byte (sheetOf (g / 256)) (tileRow (g % 256) + y) (tileCol (g % 256) + x) = 16 * g + 8 + y := by
  have hrow : (tileRow (g % 256) + y) % 8 = y := by unfold tileRow; omega
  rw [plane0Byte, plane1Byte, tileOf_tile hg hy hx, hrow]
  exact ⟨rfl, rfl⟩

theorem bitPos_tileCol_add (t : Nat) {x : Nat} (hx : x < 8) : bitPos (tileCol t + x) = 7 - x := by
  unfold bitPos tileCol; omega

/-- Every bit of CHRBUF is a plane bit of some pixel. -/
theorem exists_pixel_of_bit {k b : Nat} (hk : k < 8192) (hb : b < 8) :
    ∃ sh r c, r < 128 ∧ c < 128 ∧ bitPos c = b ∧ (plane0Byte sh r c = k ∨ plane1Byte sh r c = k) := by
  have hrow : k % 8 < 8 := Nat.mod_lt _ (by decide)
  have hcol : 7 - b < 8 := by omega
  obtain ⟨hr, hc⟩ := tile_in_sheet (g := k / 16) hrow hcol
  obtain ⟨h0, h1⟩ := planeBytes_tile (g := k / 16) (by omega) hrow hcol
  refine ⟨sheetOf (k / 16 / 256), _, _, hr, hc, ?_, ?_⟩
  · rw [bitPos_tileCol_add _ hcol]; omega
  · rw [h0, h1]; omega

/-- Two CHR buffers are equal when they agree on the two bits of every pixel. -/
theorem chr_ext {f f' : Nat → Byte}
    (h0 : ∀ sh r c, r < 128 → c < 128 →
      (f (plane0Byte sh r c)).getLsbD (bitPos c) = (f' (plane0Byte sh r c)).getLsbD (bitPos c))
    (h1 : ∀ sh r c, r < 128 → c < 128 →
      (f (plane1Byte sh r c)).getLsbD (bitPos c) = (f' (plane1Byte sh r c)).getLsbD (bitPos c)) :
    ∀ k < 8192, f k = f' k := by
  intro k hk
  apply BitVec.eq_of_getLsbD_eq
  intro b hb
  obtain ⟨sh, r, c, hr, hc, rfl, rfl | rfl⟩ := exists_pixel_of_bit hk hb
  · exact h0 sh r c hr hc
  · exact h1 sh r c hr hc

/-! ### What DECODE and ENCODE answer -/

/-- What DECODE answers (R64). -/
def decoded (s : State) : State := s.setSheets (decodedPixel s)

/-- What ENCODE answers (R66). -/
def encoded (s : State) : State := (s.setAllChr (encodedByte s)).setChrLen 8192

theorem exec_decode_eq_decoded (s : State) : exec .decode s = .next (decoded s) := exec_decode s

theorem exec_encode_eq_encoded (s : State) : exec .encode s = .next (encoded s) := exec_encode s

theorem pixel_decoded (s : State) {sh : SheetSel} {r c : Nat} (hr : r < 128) (hc : c < 128) :
    (decoded s).pixel sh r c = decodedPixel s sh r c :=
  s.pixel_setSheets _ hr hc

theorem chrByte_encoded (s : State) {k : Nat} (hk : k < 8192) : (encoded s).chrByte k = encodedByte s k :=
  s.chrByte_setAllChr _ hk

theorem chrByte_encoded_plane0 (s : State) {sh : SheetSel} {r c : Nat} (hr : r < 128) (hc : c < 128) :
    ((encoded s).chrByte (plane0Byte sh r c)).getLsbD (bitPos c) = (s.pixel sh r c).getLsbD 0 := by
  rw [chrByte_encoded s (plane0Byte_lt hr hc), encodedByte_plane0 s hr hc]

theorem chrByte_encoded_plane1 (s : State) {sh : SheetSel} {r c : Nat} (hr : r < 128) (hc : c < 128) :
    ((encoded s).chrByte (plane1Byte sh r c)).getLsbD (bitPos c) = (s.pixel sh r c).getLsbD 1 := by
  rw [chrByte_encoded s (plane1Byte_lt hr hc), encodedByte_plane1 s hr hc]

/-- ENCODE leaves every byte present (R66). -/
theorem presentByte_encoded (s : State) {k : Nat} (hk : k < 8192) : presentByte (encoded s) k = encodedByte s k := by
  rw [presentByte_of_lt (by simpa [encoded] using hk), chrByte_encoded s hk]

theorem wf_encoded {s : State} (h : Memory.wf s = true) : Memory.wf (encoded s) = true :=
  Memory.wf_setAllChr h _

theorem wf_decoded {s : State} (h : Memory.wf s = true) : Memory.wf (decoded s) = true :=
  Memory.wf_setSheets h _

/-! ### What they read (R64, R66) -/

/-- The bytes DECODE reads are fixed by the length and the bytes below it. -/
theorem presentByte_congr {s u : State} (hlen : u.chrLen = s.chrLen)
    (h : ∀ k < min s.chrLen.toNat 8192, u.chrByte k = s.chrByte k) : presentByte u = presentByte s := by
  funext k
  by_cases hk : k < min s.chrLen.toNat 8192
  · rw [presentByte_of_lt hk, presentByte_of_lt (hlen ▸ hk), h k hk]
  · rw [presentByte_of_ge (not_lt.mp hk), presentByte_of_ge (hlen ▸ not_lt.mp hk)]

/-- DECODE reads CHRBUF through `presentByte` only. -/
theorem decodedPixel_congr {s u : State} (h : presentByte u = presentByte s) : decodedPixel u = decodedPixel s := by
  funext sh r c
  rw [decodedPixel, decodedPixel, h]

/-- With no byte present DECODE gives every pixel 0. -/
theorem decodedPixel_of_empty {s : State} (h : s.chrLen = 0) (sh : SheetSel) (r c : Nat) :
    decodedPixel s sh r c = 0 := by
  have habsent (k : Nat) : presentByte s k = 0 := presentByte_of_ge (by simp [h])
  apply pixel_ext
  · rw [decodedPixel_bit0, habsent]; exact BitVec.getLsbD_zero
  · rw [decodedPixel_bit1, habsent]; exact BitVec.getLsbD_zero

theorem decoded_of_empty {s : State} (h : s.chrLen = 0) : decoded s = s.setSheet [] :=
  congrArg s.setSheet (Store.tabulate_default fun _ _ => decodedPixel_of_empty h _ _ _)

/-- The bytes ENCODE writes are fixed by the pixels. -/
theorem encodedByte_congr {s u : State} (h : ∀ sh r c, r < 128 → c < 128 → u.pixel sh r c = s.pixel sh r c) :
    ∀ k < 8192, encodedByte u k = encodedByte s k := by
  refine chr_ext (fun sh r c hr hc => ?_) (fun sh r c hr hc => ?_)
  · rw [encodedByte_plane0 u hr hc, encodedByte_plane0 s hr hc, h sh r c hr hc]
  · rw [encodedByte_plane1 u hr hc, encodedByte_plane1 s hr hc, h sh r c hr hc]

/-! ### One after the other (R71) -/

/-- DECODE reads back from ENCODE's bytes the pixels they were made of. -/
theorem decodedPixel_encoded (s : State) {sh : SheetSel} {r c : Nat} (hr : r < 128) (hc : c < 128) :
    decodedPixel (encoded s) sh r c = s.pixel sh r c := by
  apply pixel_ext
  · rw [decodedPixel_bit0, presentByte_encoded s (plane0Byte_lt hr hc), encodedByte_plane0 s hr hc]
  · rw [decodedPixel_bit1, presentByte_encoded s (plane1Byte_lt hr hc), encodedByte_plane1 s hr hc]

/-- ENCODE writes back from DECODE's pixels the bytes they were made of, absent ones as 0. -/
theorem encodedByte_decoded (s : State) : ∀ k < 8192, encodedByte (decoded s) k = presentByte s k := by
  refine chr_ext (fun sh r c hr hc => ?_) (fun sh r c hr hc => ?_)
  · rw [encodedByte_plane0 _ hr hc, pixel_decoded s hr hc, decodedPixel_bit0]
  · rw [encodedByte_plane1 _ hr hc, pixel_decoded s hr hc, decodedPixel_bit1]

theorem pixel_decoded_encoded (s : State) {sh : SheetSel} {r c : Nat} (hr : r < 128) (hc : c < 128) :
    (decoded (encoded s)).pixel sh r c = s.pixel sh r c :=
  (pixel_decoded _ hr hc).trans (decodedPixel_encoded s hr hc)

theorem chrByte_encoded_decoded (s : State) {k : Nat} (hk : k < 8192) :
    (encoded (decoded s)).chrByte k = presentByte s k :=
  (chrByte_encoded _ hk).trans (encodedByte_decoded s k hk)

/-! ### Canonical sheets are equal when their pixels are -/

/-- A canonical memory lists no cell past its end and no cell at what an unlisted one reads as. -/
theorem Store.get?_of_wf {w size : Nat} {d : Option (BitVec w)} {m : Store w} (hm : Store.wf d size m = true) {k : Nat}
    {v : BitVec w} (h : Store.get? m k = some v) : k < size ∧ d ≠ some v :=
  (Store.wf_iff.mp hm).2 _ (Store.get?_mem h)

/-- Two canonical memories whose cells read alike are the same list. -/
theorem Store.ext_getD {w size : Nat} {v : BitVec w} {m m' : Store w} (hm : Store.wf (some v) size m = true)
    (hm' : Store.wf (some v) size m' = true)
    (h : ∀ k < size, (Store.get? m k).getD v = (Store.get? m' k).getD v) : m = m' := by
  refine Store.ext_get? hm hm' fun k => ?_
  have hread := h k
  cases hx : Store.get? m k with
  | none =>
    cases hy : Store.get? m' k with
    | none => rfl
    | some y =>
      obtain ⟨hk, hne⟩ := Store.get?_of_wf hm' hy
      exact absurd (congrArg some (show v = y by simpa [hx, hy] using hread hk)) hne
  | some x =>
    obtain ⟨hk, hne⟩ := Store.get?_of_wf hm hx
    cases hy : Store.get? m' k with
    | none =>
      exact absurd (congrArg some (show x = v by simpa [hx, hy] using hread hk)).symm hne
    | some y => simpa [hx, hy] using hread hk

theorem sheet_ext {s t : State} (hs : Memory.wf s = true) (ht : Memory.wf t = true)
    (h : ∀ sh r c, r < 128 → c < 128 → t.pixel sh r c = s.pixel sh r c) : t.sheet = s.sheet := by
  refine Store.ext_getD (Memory.wf_iff.mp ht).1 (Memory.wf_iff.mp hs).1 fun k hk => ?_
  have hpixel := h (cellSheet k) (cellRow k) (cellCol k) (Nat.mod_lt _ (by decide)) (Nat.mod_lt _ (by decide))
  rwa [State.pixel, State.pixel, cellKey_cell hk] at hpixel

/-! ### One pixel set (R68, R69) -/

theorem State.pixel_setPixel_self (s : State) (sh : SheetSel) {r c : Nat} (hr : r < 128) (hc : c < 128) (v : Pixel) :
    (s.setPixel sh r c v).pixel sh r c = v := by
  rw [s.pixel_setPixel hr hc hr hc, if_pos ⟨rfl, rfl, rfl⟩]

/-- A pixel that setting a pixel changes is the pixel set. -/
theorem State.pixel_setPixel_ne {s : State} {sh sh' : SheetSel} {r c r' c' : Nat} (hr : r < 128) (hc : c < 128)
    (hr' : r' < 128) (hc' : c' < 128) {v : Pixel} (h : (s.setPixel sh r c v).pixel sh' r' c' ≠ s.pixel sh' r' c') :
    sh' = sh ∧ r' = r ∧ c' = c := by
  by_contra hother
  exact h (by rw [s.pixel_setPixel hr hc hr' hc', if_neg hother])

/-- The only bits of ENCODE's bytes that setting a pixel can change are the pixel's own two. -/
theorem encodedByte_setPixel_ne {s : State} {sh : SheetSel} {r c : Nat} (hr : r < 128) (hc : c < 128) {v : Pixel}
    {k b : Nat} (hk : k < 8192)
    (h : (encodedByte (s.setPixel sh r c v) k).getLsbD b ≠ (encodedByte s k).getLsbD b) :
    b = bitPos c ∧ (k = plane0Byte sh r c ∨ k = plane1Byte sh r c) := by
  have hb : b < 8 := by
    by_contra hb
    exact h (by rw [BitVec.getLsbD_of_ge _ _ (not_lt.mp hb), BitVec.getLsbD_of_ge _ _ (not_lt.mp hb)])
  obtain ⟨sh', r', c', hr', hc', rfl, hplane⟩ := exists_pixel_of_bit hk hb
  have hpixel : (s.setPixel sh r c v).pixel sh' r' c' ≠ s.pixel sh' r' c' := by
    intro hsame
    obtain rfl | rfl := hplane
    · exact h (by rw [encodedByte_plane0 _ hr' hc', encodedByte_plane0 _ hr' hc', hsame])
    · exact h (by rw [encodedByte_plane1 _ hr' hc', encodedByte_plane1 _ hr' hc', hsame])
  obtain ⟨rfl, rfl, rfl⟩ := State.pixel_setPixel_ne hr hc hr' hc' hpixel
  exact ⟨rfl, hplane.imp Eq.symm Eq.symm⟩

/-! ### The loop of DECODE in numbers (R64) -/

theorem toNat_presentByte (s : State) (k : Nat) :
    (presentByte s k).toNat = if k < min s.chrLen.toNat 8192 then (s.chrByte k).toNat else 0 :=
  apply_ite BitVec.toNat ..

theorem toNat_getLsbD {w : Nat} (v : BitVec w) (i : Nat) : (v.getLsbD i).toNat = v.toNat >>> i &&& 1 := by
  rw [BitVec.getLsbD, Nat.toNat_testBit, Nat.and_one_is_mod, Nat.shiftRight_eq_div_pow]

theorem toNat_pixel : ∀ v : Pixel, v.toNat = (v.getLsbD 1).toNat <<< 1 ||| (v.getLsbD 0).toNat := by decide

theorem toNat_decodedPixel (s : State) (sh : SheetSel) (r c : Nat) :
    (decodedPixel s sh r c).toNat = ((presentByte s (plane1Byte sh r c)).toNat >>> bitPos c &&& 1) <<< 1 |||
      ((presentByte s (plane0Byte sh r c)).toNat >>> bitPos c &&& 1) := by
  rw [toNat_pixel, decodedPixel_bit0, decodedPixel_bit1, toNat_getLsbD, toNat_getLsbD]

end Sys2Proof.Machine

open Sys2Proof Sys2Proof.Machine

/-- Settles O35: the pixel's two bits are those of its two bytes, which are the bytes of the loop. -/
theorem decodeUnpacksEveryTile : Obligations.DecodeUnpacksEveryTile := by
  intro s
  refine ⟨decoded s, exec_decode_eq_decoded s, rfl, fun g y x hg hy hx => ?_⟩
  obtain ⟨hr, hc⟩ := tile_in_sheet (g := g) hy hx
  obtain ⟨h0, h1⟩ := planeBytes_tile hg hy hx
  have hpixel := toNat_decodedPixel s (sheetOf (g / 256)) (tileRow (g % 256) + y) (tileCol (g % 256) + x)
  rw [h0, h1, bitPos_tileCol_add _ hx, toNat_presentByte, toNat_presentByte] at hpixel
  exact (congrArg BitVec.toNat (pixel_decoded s hr hc)).trans hpixel

/-- Settles O36: the two bytes of the pixel at (y, x) of tile g are 16g+y and 16g+8+y. -/
theorem encodePacksEveryTile : Obligations.EncodePacksEveryTile := by
  intro s
  refine ⟨encoded s, exec_encode_eq_encoded s, rfl, fun g y x hg hy hx => ?_⟩
  obtain ⟨hr, hc⟩ := tile_in_sheet (g := g) hy hx
  obtain ⟨h0, h1⟩ := planeBytes_tile hg hy hx
  rw [← h0, ← h1, ← bitPos_tileCol_add (g % 256) hx]
  exact ⟨chrByte_encoded_plane0 s hr hc, chrByte_encoded_plane1 s hr hc⟩

/-- Settles O37: the two bytes are those of R65, and in a full buffer both are present. -/
theorem pixelBitsAreTwoChrBits : Obligations.PixelBitsAreTwoChrBits := by
  intro s sh r c hr hc
  have h0 : plane0Byte sh r c < 8192 := plane0Byte_lt hr hc
  have h1 : plane1Byte sh r c < 8192 := plane1Byte_lt hr hc
  refine ⟨fun hfull => ⟨decoded s, exec_decode_eq_decoded s, ?_, ?_⟩,
    ⟨encoded s, exec_encode_eq_encoded s, chrByte_encoded_plane0 s hr hc, chrByte_encoded_plane1 s hr hc⟩⟩
  · rw [pixel_decoded s hr hc, decodedPixel_bit0, presentByte_of_lt (by omega)]
    rfl
  · rw [pixel_decoded s hr hc, decodedPixel_bit1, presentByte_of_lt (by omega)]
    rfl

/-- Settles O38: DECODE undoes ENCODE pixel by pixel, and ENCODE undoes DECODE on the bytes that are present. -/
theorem codecRoundTripLaws : Obligations.CodecRoundTripLaws := by
  intro s
  have hpresent (k : Nat) (hk : k < 8192) : (encoded (decoded s)).chrByte k =
      if k < min s.chrLen.toNat 8192 then s.chrByte k else 0x00 := chrByte_encoded_decoded s hk
  refine ⟨⟨_, _, exec_encode_eq_encoded s, exec_decode_eq_decoded _, fun sh r c hr hc => ?_⟩,
    ⟨_, _, exec_decode_eq_decoded s, exec_encode_eq_encoded _, fun hfull k hk => ?_, hpresent⟩,
    ⟨_, _, _, exec_decode_eq_decoded s, exec_encode_eq_encoded _, exec_decode_eq_decoded _, fun sh r c hr hc => ?_⟩,
    ⟨_, _, _, exec_encode_eq_encoded s, exec_decode_eq_decoded _, exec_encode_eq_encoded _, fun k hk => ?_⟩⟩
  · exact pixel_decoded_encoded s hr hc
  · rw [hpresent k hk, if_pos (by omega)]
  · exact pixel_decoded_encoded (decoded s) hr hc
  · rw [chrByte_encoded_decoded _ hk, presentByte_encoded s hk, chrByte_encoded s hk]

/-- Settles O39: both commands keep the canonical form, in which equal pixels are equal data. -/
theorem encodeThenDecodeRestoresTheSheetData : Obligations.EncodeThenDecodeRestoresTheSheetData := by
  intro s a b hwf ha hb
  obtain rfl : encoded s = a := Host.Outcome.next.inj ha
  obtain rfl : decoded (encoded s) = b := Host.Outcome.next.inj hb
  exact sheet_ext hwf (wf_decoded (wf_encoded hwf)) fun sh r c hr hc => pixel_decoded_encoded s hr hc

/-- Settles O40: DECODE reads CHRBUF through `presentByte`, which the length and the bytes below it fix. -/
theorem decodeReadsOnlyThePresentBytes : Obligations.DecodeReadsOnlyThePresentBytes := by
  intro s u hlen hbytes
  refine ⟨decoded s, decoded u, exec_decode_eq_decoded s, exec_decode_eq_decoded u, ?_⟩
  rw [decoded, decodedPixel_congr (presentByte_congr hlen hbytes)]
  rfl

/-- Settles O41: the bytes ENCODE writes are fixed by the pixels, and it writes CHRBUF and CHR_LEN whole. -/
theorem encodeReadsOnlyTheSheets : Obligations.EncodeReadsOnlyTheSheets := by
  intro s
  refine ⟨fun u hpixels => ?_, fun m len => rfl⟩
  exact ⟨encoded s, encoded u, exec_encode_eq_encoded s, exec_encode_eq_encoded u,
    Store.tabulate_congr (encodedByte_congr hpixels), rfl⟩

/-- Settles O42: a sheet of zeros lists no cell, and with LEN = 0 DECODE reads only absent bytes. -/
theorem zeroshClearsBothSheets : Obligations.ZeroshClearsBothSheets := by
  intro s
  refine ⟨_, exec_zerosh s, rfl, fun sh r c _ _ => s.pixel_setSheet_nil sh r c, fun hlen => ?_⟩
  rw [exec_decode_eq_decoded, decoded_of_empty hlen]

/-- Settles O43, from what a pixel written reads as. -/
theorem setpixWritesOneCell : Obligations.SetpixWritesOneCell := by
  intro s sh row col k
  refine ⟨_, exec_setpix sh row col k s, rfl, s.pixel_setPixel_self sh row.isLt col.isLt k,
    fun sh' r c hr hc hother => ?_⟩
  rw [s.pixel_setPixel row.isLt col.isLt hr hc, if_neg hother]

/-- Settles O44: the one pixel that changes lies in its tile, and has one bit in each of two bytes of ENCODE's. -/
theorem setpixTouchesOneTileAndTwoBits : Obligations.SetpixTouchesOneTileAndTwoBits := by
  intro s sh row col k tile
  have hrow := row.isLt
  have hcol := col.isLt
  refine ⟨_, _, _, exec_setpix sh row col k s, exec_encode_eq_encoded s, exec_encode_eq_encoded _, ?_, ?_, ?_⟩
  · have hr : 8 * (tile / 16) + row.toNat % 8 = row.toNat := by omega
    have hc : 8 * (tile % 16) + col.toNat % 8 = col.toNat := by omega
    rw [hr, hc, s.pixel_setPixel_self sh hrow hcol]
  · intro sh' r c hr hc hchanged
    obtain ⟨rfl, rfl, rfl⟩ := State.pixel_setPixel_ne hrow hcol hr hc hchanged
    exact ⟨rfl, rfl⟩
  · intro j b hj hchanged
    rw [chrByte_encoded _ hj, chrByte_encoded _ hj] at hchanged
    have hbit := encodedByte_setPixel_ne hrow hcol hj hchanged
    rwa [plane0Byte, plane1Byte, tileOf, Nat.add_assoc (256 * sheetNumber sh)] at hbit

/-- Settles O45: it is the model's meaning of GETPIX. -/
theorem getpixReadsItsCell : Obligations.GetpixReadsItsCell :=
  fun s sh row col => exec_getpix sh row col s

/-- Settles O46, from what a pixel written reads as: operands name one cell exactly when they are equal. -/
theorem getpixAfterSetpix : Obligations.GetpixAfterSetpix := by
  intro s sh sh' row col row' col' k
  refine ⟨_, _, exec_setpix sh row col k s, exec_getpix sh' row' col' _, ?_⟩
  rw [State.setResult_result, BitVec.toNat_setWidth_of_le (by decide),
    s.pixel_setPixel row.isLt col.isLt row'.isLt col'.isLt]
  simp only [BitVec.toNat_inj]
  exact apply_ite BitVec.toNat ..
end

section
/-! ### Palettes (R73 to R76): the entry that SETPAL writes, as the commands that read it show it -/

namespace Sys2Proof.Machine

/-! ### The entry written (R73) -/

theorem State.subpalEntry_setSubpalEntry_self (s : State) (p k : BitVec 2) (mi : MasterIndex) :
    (s.setSubpalEntry p k mi).subpalEntry p k = mi := by
  rw [State.subpalEntry_setSubpalEntry, if_pos ⟨rfl, rfl⟩]

/-- An index shows the master colour of the entry just written for it (R79). -/
theorem State.colorOf_setSubpalEntry_self (s : State) (p k : BitVec 2) (mi : MasterIndex) :
    (s.setSubpalEntry p k mi).colorOf p k = Config.master mi :=
  congrArg Config.master (s.subpalEntry_setSubpalEntry_self p k mi)

/-! ### The word of GETPAL (R75, R76) -/

theorem extractLsb'_extractLsb'_within {w : Nat} (v : BitVec w) (start : Nat) {lo len n : Nat} (h : lo + len ≤ n) :
    (v.extractLsb' start n).extractLsb' lo len = v.extractLsb' (start + lo) len := by
  ext i hi
  have hinside : lo + i < n := by omega
  simp [hinside, Nat.add_assoc]

/-- A byte of GETPAL's word is two zero bits above one entry (R76). -/
theorem packSubpal_eq_wordOfBytes (e : BitVec 2 → MasterIndex) :
    packSubpal e = (0#2 ++ e 3) ++ (0#2 ++ e 2) ++ (0#2 ++ e 1) ++ (0#2 ++ e 0) := by
  simp only [BitVec.append_assoc']
  rfl

/-- Slot k is byte k (R76). -/
theorem extractLsb'_byte_packSubpal (e : BitVec 2 → MasterIndex) (k : BitVec 2) :
    (packSubpal e).extractLsb' (8 * k.toNat) 8 = 0#2 ++ e k := by
  obtain ⟨h0, h1, h2, h3⟩ := extract_wordOfBytes (0#2 ++ e 0) (0#2 ++ e 1) (0#2 ++ e 2) (0#2 ++ e 3)
  rw [← packSubpal_eq_wordOfBytes] at h0 h1 h2 h3
  obtain rfl | rfl | rfl | rfl : k = 0 ∨ k = 1 ∨ k = 2 ∨ k = 3 := by decide +revert
  exacts [h0, h1, h2, h3]

theorem extractLsb'_slot_packSubpal (e : BitVec 2 → MasterIndex) (k : BitVec 2) :
    (packSubpal e).extractLsb' (8 * k.toNat) 6 = e k := by
  have hslot := extractLsb'_extractLsb'_within (packSubpal e) (8 * k.toNat) (show 0 + 6 ≤ 8 by decide)
  rw [extractLsb'_byte_packSubpal] at hslot
  exact hslot.symm.trans BitVec.extractLsb'_append_eq_right

theorem extractLsb'_above_slot_packSubpal (e : BitVec 2 → MasterIndex) (k : BitVec 2) :
    (packSubpal e).extractLsb' (8 * k.toNat + 6) 2 = 0#2 := by
  have htop := extractLsb'_extractLsb'_within (packSubpal e) (8 * k.toNat) (show 6 + 2 ≤ 8 by decide)
  rw [extractLsb'_byte_packSubpal] at htop
  exact htop.symm.trans BitVec.extractLsb'_append_eq_left

/-! ### The first word of COLORIZE (R80) -/

/-- A legal region holds its first pixel, so that word 0 is written (R81). -/
theorem rgbWord_zero_exec_colorize {s t : State} {sh : SheetSel} {p : BitVec 2} {row col : BitVec 7}
    (hlegal : regionLegal s.czSize row col = true) (ht : exec (.colorize sh p row col) s = .next t) :
    t.rgbWord 0 = rgbWordOf (s.colorOf p (s.pixel sh row.toNat col.toNat)) := by
  obtain ⟨⟨hheight, -⟩, ⟨hwidth, -⟩, -⟩ := regionLegal_iff.mp hlegal
  simpa using rgbWord_exec_colorize hlegal ht hheight hwidth

end Sys2Proof.Machine

open Sys2Proof Sys2Proof.Machine

/-- Settles O47, from what a sub-palette entry written reads as. -/
theorem setpalWritesOneEntry : Obligations.SetpalWritesOneEntry := by
  intro s p k mi
  refine ⟨_, exec_setpal p k mi s, rfl, s.subpalEntry_setSubpalEntry_self p k mi, fun p' k' hother => ?_⟩
  rw [State.subpalEntry_setSubpalEntry, if_neg hother]

/-- Settles O48: byte k of RESULT is slot k under two zero bits. -/
theorem getpalPacksFourEntries : Obligations.GetpalPacksFourEntries := fun s p =>
  ⟨_, exec_getpal p s, rfl, fun k => ⟨extractLsb'_slot_packSubpal _ k, extractLsb'_above_slot_packSubpal _ k⟩⟩

/-- Settles O50: GETPAL reads the entry that SETPAL wrote, and LOOKUP and COLORIZE its colour. -/
theorem setpalIsSeenByLaterCommands : Obligations.SetpalIsSeenByLaterCommands := by
  intro s p k mi
  have hcolor : rgbWordOf ((s.setSubpalEntry p k mi).colorOf p k) = (Config.master mi).setWidth 32 :=
    congrArg rgbWordOf (s.colorOf_setSubpalEntry_self p k mi)
  refine ⟨_, exec_setpal p k mi s, rfl, fun i => s.setSubpalEntry_rgbWord p k mi i,
    ⟨_, exec_getpal p _, ?_⟩, ⟨_, exec_lookup p k _, hcolor⟩, fun sh row col hregion hfirst => ?_⟩
  · exact (extractLsb'_slot_packSubpal _ k).trans (s.subpalEntry_setSubpalEntry_self p k mi)
  · have hlegal : regionLegal (s.setSubpalEntry p k mi).czSize row col = true := hregion
    refine ⟨_, exec_colorize_legal hlegal sh p, ?_⟩
    rw [rgbWord_zero_exec_colorize hlegal (exec_colorize_legal hlegal sh p), State.setSubpalEntry_pixel, hfirst, hcolor]
end

section
/-! ### COLORIZE (R80 to R82): what it leaves of RGBBUF, and the statements about its region -/

namespace Sys2Proof.Machine

/-- A legal COLORIZE keeps the words of RGBBUF from H*W on (R80). -/
theorem rgbWord_exec_colorize_of_le {s t : State} {sh : SheetSel} {p : BitVec 2} {row col : BitVec 7}
    (hlegal : regionLegal s.czSize row col = true) (ht : exec (.colorize sh p row col) s = .next t) {n : Nat}
    (hn : czHeight s.czSize * czWidth s.czSize ≤ n) : t.rgbWord n = s.rgbWord n := by
  rw [exec_colorize_legal hlegal] at ht
  injection ht with ht
  rw [← ht, State.rgbWord_fillRgb, if_neg (Nat.not_lt.mpr hn)]

end Sys2Proof.Machine

open Sys2Proof Sys2Proof.Machine

/-- Settles O52: the conditions are those of a legal region, whose COLORIZE writes words 0 to H*W-1. -/
theorem colorizeWritesTheRegion : Obligations.ColorizeWritesTheRegion := by
  intro s sh p row col h w hh hh' hw hw' hrow hcol
  have hlegal : regionLegal s.czSize row col = true := regionLegal_iff.mpr ⟨⟨hh, hh'⟩, ⟨hw, hw'⟩, hrow, hcol⟩
  have ht := exec_colorize_legal hlegal sh p
  exact ⟨_, ht, exec_colorize_frame hlegal ht, fun i j hi hj => rgbWord_exec_colorize hlegal ht hi hj,
    fun n hn => rgbWord_exec_colorize_of_le hlegal ht hn⟩

/-- Settles O53: a region that breaks a condition is not legal, and BAD_REGION has code 3. -/
theorem colorizeOffTheSheetIsBadRegion : Obligations.ColorizeOffTheSheetIsBadRegion := by
  intro s sh p row col h w hbroken
  have hillegal : regionLegal s.czSize row col = false := by
    refine Bool.eq_false_iff.mpr fun hlegal => hbroken ?_
    obtain ⟨⟨hh, hh'⟩, ⟨hw, hw'⟩, hrow, hcol⟩ := regionLegal_iff.mp hlegal
    exact ⟨hh, hh', hw, hw', hrow, hcol⟩
  exact (exec_colorize_illegal hillegal sh p).trans (congrArg Host.Outcome.next (raiseCmdError_eq .badRegion s))

/-- Settles O54: both are the colour of the pixel's index in the sub-palette. -/
theorem colorizeIsLookupPerPixel : Obligations.ColorizeIsLookupPerPixel :=
  fun _ sh p _ _ _ _ hlegal hi hj =>
    have ht := exec_colorize_legal hlegal sh p
    ⟨_, _, ht, exec_lookup .., rgbWord_exec_colorize hlegal ht hi hj⟩
end

section
/-! ### Errors (R83 to R89): the first code is kept, commands run alike whatever STATUS holds, and every sequence of
events completes -/

namespace Sys2Proof.Machine

/-! ### Commands while ERR is 1 (R88) -/

/-- An error raised while ERR is 1 leaves ERR and the code as they were (R87). -/
theorem raiseCmdError_setStatus_true (e : CmdError) (s : State) (code : BitVec 4) :
    raiseCmdError e (s.setStatus true code) = (raiseCmdError e s).setStatus true code := rfl

/-- COLORIZE reads CZ_SIZE, SUBPAL and SHEET, and STATUS never. -/
theorem exec_colorize_setStatus_true (sh : SheetSel) (p : BitVec 2) (row col : BitVec 7) (s : State) (code : BitVec 4) :
    ∃ t, exec (.colorize sh p row col) s = .next t ∧
      exec (.colorize sh p row col) (s.setStatus true code) = .next (t.setStatus true code) := by
  cases hregion : regionLegal s.czSize row col with
  | false =>
    refine ⟨_, exec_colorize_illegal hregion sh p, ?_⟩
    exact exec_colorize_illegal (s := s.setStatus true code) hregion sh p
  | true =>
    refine ⟨_, exec_colorize_legal hregion sh p, ?_⟩
    exact exec_colorize_legal (s := s.setStatus true code) hregion sh p

/-- A command that runs while ERR is 1 does what it does in any other STATUS, and keeps that STATUS. -/
theorem exec_setStatus_true (i : Instr) (s : State) (code : BitVec 4) :
    ∃ t, exec i s = .next t ∧ exec i (s.setStatus true code) = .next (t.setStatus true code) := by
  cases i with
  | colorize sh p row col => exact exec_colorize_setStatus_true sh p row col s code
  | _ => exact ⟨_, rfl, rfl⟩

theorem runCommand_setStatus_true (w : Word) (s : State) (code : BitVec 4) :
    ∃ t, runCommand w s = .next t ∧ runCommand w (s.setStatus true code) = .next (t.setStatus true code) := by
  cases hd : decode w with
  | ok i =>
    rw [runCommand_ok hd, runCommand_ok hd]
    exact exec_setStatus_true i s code
  | error e =>
    rw [runCommand_error hd, runCommand_error hd, raiseCmdError_setStatus_true]
    exact ⟨_, rfl, rfl⟩

/-! ### Sequences of events (R105) -/

/-- As many steps as there are events pending take them all: each step completes and takes one. -/
theorem core_run_pending (q : List HostEvent) {s : State} (h : s.pending = q) :
    ∃ t, core.run q.length s = .next t ∧ t.pending = [] := by
  induction q generalizing s with
  | nil => exact ⟨s, rfl, h⟩
  | cons e rest ih =>
    obtain ⟨t, hstep, htail, -⟩ := everyStepTakesOneEvent s
    rw [h] at htail
    obtain ⟨u, hrun, hempty⟩ := ih htail
    exact ⟨u, (core_run_succ rest.length hstep).trans hrun, hempty⟩

end Sys2Proof.Machine

open Sys2Proof Sys2Proof.Machine

/-- Settles O11: no command reads STATUS, and an error raised while ERR is 1 leaves it alone. -/
theorem commandsIgnoreErr : Obligations.CommandsIgnoreErr := by
  intro w s code
  obtain ⟨t, ht, hu⟩ := runCommand_setStatus_true w s code
  exact ⟨t, t.setStatus true code, ht, hu, rfl, rfl, rfl⟩

/-- Settles O23, by induction on the events pending. -/
theorem everyProgramCompletes : Obligations.EveryProgramCompletes :=
  fun _ => core_run_pending _ rfl

/-- Settles O9, from what raising an error does and the codes of R84. -/
theorem raiseKeepsTheFirstError : Obligations.RaiseKeepsTheFirstError :=
  fun s => ⟨raiseCmdError_eq .illegalOp s, raiseCmdError_eq .reservedBits s, raiseCmdError_eq .badRegion s⟩
end

section
/-! ### Reset (R97, R99): what the reset state and a state after a reset event read as -/

namespace Sys2Proof.Machine

namespace State

/-! ### A memory with no listed cell reads as its reset contents -/

theorem pixel_of_sheet_nil {s : State} (h : s.sheet = []) (sh : SheetSel) (r c : Nat) : s.pixel sh r c = 0 := by
  rw [pixel, h]
  rfl

theorem chrByte_of_chrbuf_nil {s : State} (h : s.chrbuf = []) (k : Nat) :
    s.chrByte k = Config.chrDraw s.resets k := by
  rw [chrByte, h]
  rfl

theorem rgbWord_of_rgbbuf_nil {s : State} (h : s.rgbbuf = []) (i : Nat) :
    s.rgbWord i = Config.rgbDraw s.resets i := by
  rw [rgbWord, h]
  rfl

theorem subpalEntry_reset (p k : BitVec 2) : reset.subpalEntry p k = Config.resetSubpal p k := by
  simp [subpalEntry, reset, Vector.get_eq_getElem]

end State

/-! ### The reset event -/

theorem resetState_subpalEntry (s : State) (p k : BitVec 2) :
    (resetState s).subpalEntry p k = Config.resetSubpal p k :=
  State.subpalEntry_reset p k

theorem step_reset {s : State} {rest : List HostEvent} (hp : s.pending = .reset :: rest) :
    step s = .next (resetState (s.setPending rest)) :=
  step_event hp

end Sys2Proof.Machine

open Sys2Proof Sys2Proof.Machine

/-- Settles O26: the step gives the state of the reset event, which lists no cell of any memory and counts one reset
more. -/
theorem resetEventGivesTheResetValues : Obligations.ResetEventGivesTheResetValues := by
  intro s rest hp
  refine ⟨_, step_reset hp, ?sheet, resetState_subpalEntry _, rfl, rfl, rfl, rfl, rfl, ?chrbuf, ?rgbbuf, rfl⟩
  case sheet => exact State.pixel_of_sheet_nil rfl
  case chrbuf => exact State.chrByte_of_chrbuf_nil rfl
  case rgbbuf => exact State.rgbWord_of_rgbbuf_nil rfl

/-- Settles O25: the reset state lists no cell of any memory. -/
theorem resetStateHoldsTheResetValues : Obligations.ResetStateHoldsTheResetValues := by
  refine ⟨?sheet, State.subpalEntry_reset, rfl, rfl, rfl, rfl, rfl, ?chrbuf, ?rgbbuf⟩
  case sheet => exact State.pixel_of_sheet_nil rfl
  case chrbuf => exact State.chrByte_of_chrbuf_nil rfl
  case rgbbuf => exact State.rgbWord_of_rgbbuf_nil rfl
end
